-- ==== Sys2Proof/Word.lean ====
section
/-! DEFINITION. The word types of the FrameCodec block (00_scope.md R5). -/

namespace Sys2Proof

/-- An 8-bit payload byte, mode, register address or motor identifier (R5). -/
abbrev Byte := BitVec 8

/-- The 16-bit two's-complement pattern of an int16 field (R5, R9). -/
abbrev Half := BitVec 16

/-- A 32-bit register or command word (R5). -/
abbrev Word := BitVec 32

end Sys2Proof
end

