-- ==== Sys2Proof/Syntax.lean ====
section
/-! DEFINITION. The commands of the block: one constructor per row of the opcode table
(30_encoding.md R54, R60). -/

namespace Sys2Proof

/-- A command of the block. `vo` is CMD.VO, `mode` and `addr` are CMD.IMM8, `mid` is CMD.MID (R53).
The fields have exactly the width of their CMD field, so each holds every value the encoding admits. -/
inductive Instr where
  /-- SCALE.POS (R70). -/
  | scalePos
  /-- SCALE.VEL (R71). -/
  | scaleVel
  /-- SCALE.ACC (R72). -/
  | scaleAcc
  /-- SCALE.TQE (R73). -/
  | scaleTqe
  /-- DESCALE.POS (R75). -/
  | descalePos
  /-- DESCALE.VEL (R76). -/
  | descaleVel
  /-- DESCALE.ACC (R77). -/
  | descaleAcc
  /-- DESCALE.TQE (R78). -/
  | descaleTqe
  /-- ENC.90F: stream 0x90 from binary32 operands (R89). -/
  | enc90f (vo : Bool)
  /-- ENC.90R: stream 0x90 from raw int16 operands (R90). -/
  | enc90r (vo : Bool)
  /-- ENC.ADF: stream 0xAD from binary32 operands (R92). -/
  | encAdf (vo : Bool)
  /-- ENC.ADR: stream 0xAD from raw int16 operands (R91). -/
  | encAdr (vo : Bool)
  /-- ENC.MODE: mode write (R88). -/
  | encMode (mode mid : Byte)
  /-- ENC.REGW: register write (R87). -/
  | encRegw (addr mid : Byte)
  /-- ENC.PING: discovery ping (R93). -/
  | encPing (mid : Byte)
  /-- DEC.STREAM: stream payload decode (R94). -/
  | decStream
  /-- DEC.DISC: discovery reply decode (R96). -/
  | decDisc
deriving DecidableEq, Repr

end Sys2Proof
end

