-- ==== Sys2Proof/Machine/Port.lean ====
section
/-! DEFINITION. What a host can present at the block's register port, and what the port answers
(10_state.md R14, 20_memory.md R42, R43, R46, 70_reset_and_hazards.md R115, R117). -/

namespace Sys2Proof.Machine

/-- Where a host access goes. The block decodes only address bits [7:0] (R35), so an access to the
window is known by its 8-bit offset; `Ops.lean`'s `targetOf` gives the target of a host address. -/
inductive Target where
  /-- Host address `P_BASE + o` (R35). -/
  | window (o : BitVec 8)
  /-- A host address outside the 256-byte window (I4). -/
  | outside (addr : Nat)
deriving DecidableEq, Repr

/-- A host access reads, or writes a 32-bit value (R43). -/
inductive AccessKind where
  | read
  | write (v : Word)
deriving DecidableEq, Repr

/-- A host access: its target, its width in bits (R42) and its kind. -/
structure Access where
  target : Target
  width  : Nat
  kind   : AccessKind
deriving DecidableEq, Repr

/-- What happens at the port, one event a step (R46, R123). -/
inductive PortEvent where
  /-- The port accepts a host access and completes it (R43, R45). -/
  | access (a : Access)
  /-- Reset is asserted and released with no access in progress (R115). -/
  | reset
  /-- Reset is asserted while access `a` is in progress, and released (R117, I5). -/
  | resetDuring (a : Access)
deriving DecidableEq, Repr

/-- What the port answered to the last access. -/
inductive Response where
  /-- No access yet, or none since a reset with no access in progress. -/
  | none
  /-- A read returned `v` (R43). -/
  | readData (v : Word)
  /-- A write completed (R43, R45). -/
  | writeDone
  /-- A write was interrupted by reset: what its host is told is not specified (R117, I5). -/
  | writeInterrupted
deriving DecidableEq, Repr

end Sys2Proof.Machine
end

