-- ==== Sys2Proof/WellFormed.lean ====
section
/-! DEFINITION. Well-formed commands and well-formed host accesses. -/

namespace Sys2Proof

/-- Every command term is well formed: a field of `Instr` has exactly the width of its CMD field and
the spec admits every value of it (41_frame_encode.md R87, R88, R93; 92_eei_decisions.md D14, D15). -/
def Instr.wellFormed : Instr → Bool
  | .scalePos | .scaleVel | .scaleAcc | .scaleTqe => true
  | .descalePos | .descaleVel | .descaleAcc | .descaleTqe => true
  | .enc90f _ | .enc90r _ | .encAdf _ | .encAdr _ => true
  | .encMode _ _ | .encRegw _ _ | .encPing _ => true
  | .decStream | .decDisc => true

/-- The access is 32 bits wide (20_memory.md R42, I2). -/
def Machine.Access.isWord (a : Machine.Access) : Bool := a.width == 32

/-- The access lies in the 256-byte window (R35, I4). -/
def Machine.Access.inWindow (a : Machine.Access) : Bool :=
  match a.target with
  | .window _ => true
  | .outside _ => false

/-- The access's address is a multiple of 4 (R42, I3); `P_BASE` is one too, so its offset decides. -/
def Machine.Access.aligned (a : Machine.Access) : Bool :=
  match a.target with
  | .window o => o.toNat % 4 == 0
  | .outside addr => addr % 4 == 0

/-- An access this spec defines (R42, R104, I2 to I4). -/
def Machine.Access.wellFormed (a : Machine.Access) : Bool :=
  a.inWindow && a.isWord && a.aligned

end Sys2Proof
end

