-- ==== Sys2Proof/Decode.lean ====
section
/-! DEFINITION. The decoder and the encoder of the 32-bit CMD word (30_encoding.md). -/

namespace Sys2Proof

/-- The command errors (60_exceptions.md R97). The decoder finds the first two; BAD_LEN depends on
PLEN and is found when a decoder command executes. -/
inductive CmdError where
  /-- OP is 0x0 or 0x9 to 0xF (R98). -/
  | illegalOp
  /-- A defined OP with a nonzero bit under its must-be-zero mask (R99). -/
  | rsvField
  /-- DEC_STREAM or DEC_DISC with PLEN[3:0] above 8 (R100). -/
  | badLen
deriving DecidableEq, Repr

/-- CMD.OP, bits [3:0] (R17). -/
def opField (c : Word) : BitVec 4 := c.extractLsb' 0 4

/-- CMD.QTY, bits [5:4] (R17). -/
def qtyField (c : Word) : BitVec 2 := c.extractLsb' 4 2

/-- CMD.VO, bit 6 (R17). -/
def voBit (c : Word) : Bool := c.getLsbD 6

/-- CMD.RAW, bit 7 (R17). -/
def rawBit (c : Word) : Bool := c.getLsbD 7

/-- CMD.FT, bit 8 (R17). -/
def ftBit (c : Word) : Bool := c.getLsbD 8

/-- CMD.IMM8, bits [23:16] (R17). -/
def imm8Field (c : Word) : Byte := c.extractLsb' 16 8

/-- CMD.MID, bits [31:24] (R17). -/
def midField (c : Word) : Byte := c.extractLsb' 24 8

/-- SCALE by QTY: 0 = POS, 1 = VEL, 2 = ACC, 3 = TQE (R53). -/
def scaleOf (c : Word) : Instr :=
  match (qtyField c).toNat with
  | 0 => .scalePos
  | 1 => .scaleVel
  | 2 => .scaleAcc
  | _ => .scaleTqe

/-- DESCALE by QTY (R53). -/
def descaleOf (c : Word) : Instr :=
  match (qtyField c).toNat with
  | 0 => .descalePos
  | 1 => .descaleVel
  | 2 => .descaleAcc
  | _ => .descaleTqe

/-- ENC_STREAM by FT and RAW (R17, R54). -/
def encStreamOf (c : Word) : Instr :=
  match ftBit c, rawBit c with
  | false, false => .enc90f (voBit c)
  | false, true => .enc90r (voBit c)
  | true, false => .encAdf (voBit c)
  | true, true => .encAdr (voBit c)

/-- Accept `i` when `c` has no bit under the must-be-zero mask `z`, else RSV_FIELD (R55, R99). -/
def checkZero (z c : Word) (i : Instr) : Except CmdError Instr :=
  if c &&& z = 0#32 then .ok i else .error .rsvField

/-- The command a CMD value encodes, or the error it raises: ILLEGAL_OP before RSV_FIELD (R54 to R56,
R103). Total on every 32-bit value. -/
def decode (c : Word) : Except CmdError Instr :=
  match (opField c).toNat with
  | 0x1 => checkZero 0xFFFFFFC0#32 c (scaleOf c)
  | 0x2 => checkZero 0xFFFFFFC0#32 c (descaleOf c)
  | 0x3 => checkZero 0xFFFFFE30#32 c (encStreamOf c)
  | 0x4 => checkZero 0x0000FFF0#32 c (.encMode (imm8Field c) (midField c))
  | 0x5 => checkZero 0x0000FFF0#32 c (.encRegw (imm8Field c) (midField c))
  | 0x6 => checkZero 0x00FFFFF0#32 c (.encPing (midField c))
  | 0x7 => checkZero 0xFFFFFFF0#32 c .decStream
  | 0x8 => checkZero 0xFFFFFFF0#32 c .decDisc
  | _ => .error .illegalOp

/-- A stream command word: the base word of the form with VO in bit 6 (R60). -/
def withVo (base : Word) (vo : Bool) : Word :=
  if vo then base ||| 0x00000040#32 else base

/-- The CMD word of a command (R60; spec/opcode_table.json). -/
def encode : Instr → Word
  | .scalePos => 0x00000001#32
  | .scaleVel => 0x00000011#32
  | .scaleAcc => 0x00000021#32
  | .scaleTqe => 0x00000031#32
  | .descalePos => 0x00000002#32
  | .descaleVel => 0x00000012#32
  | .descaleAcc => 0x00000022#32
  | .descaleTqe => 0x00000032#32
  | .enc90f vo => withVo 0x00000003#32 vo
  | .enc90r vo => withVo 0x00000083#32 vo
  | .encAdf vo => withVo 0x00000103#32 vo
  | .encAdr vo => withVo 0x00000183#32 vo
  | .encMode mode mid => mid ++ mode ++ 0x0004#16
  | .encRegw addr mid => mid ++ addr ++ 0x0005#16
  | .encPing mid => mid ++ 0x000006#24
  | .decStream => 0x00000007#32
  | .decDisc => 0x00000008#32

/-- A table word as a CMD value: the low `nbits` bits of `w`, every higher bit 0. -/
def tableWord (nbits w : Nat) : Word := BitVec.ofNat 32 (w % 2 ^ nbits)

/-- The command the decoder reads from an opcode-table word; `none` where it refuses. -/
def decodeTableWord (nbits w : Nat) : Option Instr :=
  match decode (tableWord nbits w) with
  | .ok i => some i
  | .error _ => none

end Sys2Proof
end

