-- ==== Sys2Proof/Config.lean ====
section
/-! DEFINITION. Implementation parameters (00_scope.md R4) and the one free value of the spec
(93_implementation_defined.md I5). -/

namespace Sys2Proof.Config

/-- `P_BASE / 0x100`. The spec leaves `P_BASE` open as a model argument, a multiple of 0x100 (R4, I6). -/
opaque pBasePage : Nat

/-- `P_BASE`, the host physical address of the register window (R4, R35). -/
def pBase : Nat := 0x100 * pBasePage

/-- `P_LATENCY`, open (R4, I7). No rule depends on it (R123), so no definition reads it. -/
opaque pLatency : Nat

/-- The values of `P_ROUND`. The spec fixes the one value RTZ, truncation toward zero (R4, R64, I8). -/
inductive Rounding where
  | rtz
deriving DecidableEq, Repr

/-- `P_ROUND` (R4). -/
def pRound : Rounding := .rtz

/-- The value a bus read interrupted by reset returns: any 32-bit value (R117, I5). A free value; the
argument is the model's counter `State.freeCount`, so each interrupted read has its own. -/
opaque interruptedRead : Nat → Word

end Sys2Proof.Config
end

