-- ==== Sys2Proof/Machine/Flags.lean ====
section
/-! DEFINITION. The flags and the status word (10_state.md R25 to R29, 60_exceptions.md R97). -/

namespace Sys2Proof.Machine

/-- The flags of a completed command (R25). A flag a command does not produce is 0 (R26, R28). -/
structure Flags where
  sat0  : Bool := false
  sat1  : Bool := false
  sat2  : Bool := false
  nan0  : Bool := false
  nan1  : Bool := false
  nan2  : Bool := false
  sent  : Bool := false
  padOk : Bool := false
  len8  : Bool := false
  nameV : Bool := false
  hwV   : Bool := false
deriving DecidableEq, Repr

/-- Bit `i` of a word set to `b`, every other bit 0. -/
def flagBit (i : Nat) (b : Bool) : Word := if b then 1#32 <<< i else 0#32

/-- The flags at their STATUS bits (R25). -/
def Flags.toWord (f : Flags) : Word :=
  flagBit 0 f.sat0 ||| flagBit 1 f.sat1 ||| flagBit 2 f.sat2 |||
  flagBit 4 f.nan0 ||| flagBit 5 f.nan1 ||| flagBit 6 f.nan2 |||
  flagBit 8 f.sent ||| flagBit 9 f.padOk ||| flagBit 10 f.len8 |||
  flagBit 12 f.nameV ||| flagBit 13 f.hwV

/-- STATUS.DONE, bit 31 (R25, R29). -/
def doneBit : Word := 0x80000000#32

/-- STATUS of a completed command: DONE = 1, ERR = 0 (R56). -/
def completedStatus (f : Flags) : Word := doneBit ||| f.toWord

/-- The STATUS.ERR code of an error (R97). -/
def errorCode : CmdError → Nat
  | .illegalOp => 0x1
  | .rsvField => 0x2
  | .badLen => 0x3

/-- STATUS of a failed command: DONE = 1, ERR = code, every flag 0 (R101). -/
def errorStatus (e : CmdError) : Word := doneBit ||| (BitVec.ofNat 32 (errorCode e) <<< 16)

end Sys2Proof.Machine
end

