-- ==== Sys2Proof/Machine/Operands.lean ====
section
/-! DEFINITION. Operand forms and numbers: bytes and int16 fields, binary32 values, the saturating
conversion and the inverse conversion (00_scope.md R6 to R13, 40_scaler.md R63 to R65). -/

namespace Sys2Proof.Machine

/-! ### Bytes and int16 fields -/

/-- `byte(v, i)`, bits [8i+7:8i] (R9). -/
def byteOf (v : Word) (i : Nat) : Byte := v.extractLsb' (8 * i) 8

/-- `b3 ‖ b2 ‖ b1 ‖ b0` (R8): the word whose byte `i` is `bi`. -/
def concat4 (b3 b2 b1 b0 : Byte) : Word := b3 ++ b2 ++ b1 ++ b0

/-- `b1 ‖ b0` (R8). -/
def concat2 (b1 b0 : Byte) : Half := b1 ++ b0

/-- The low byte of an int16 field (R13). -/
def lowByte (h : Half) : Byte := h.extractLsb' 0 8

/-- The high byte of an int16 field (R13). -/
def highByte (h : Half) : Byte := h.extractLsb' 8 8

/-- `u16(n)` (R9). -/
def u16 (n : Int) : Half := BitVec.ofInt 16 n

/-- `s16(v)` (R9). -/
def s16 (h : Half) : Int := h.toInt

/-- `sext_32` of a 16-bit pattern (R9). -/
def sext32 (h : Half) : Word := h.signExtend 32

/-- The `i16` reading of an operand register: bits [15:0], with [31:16] ignored (R18, R53). -/
def rawOperand (v : Word) : Half := v.extractLsb' 0 16

/-- The sentinel position −32768, pattern 0x8000 (R7, R84). -/
def sentinel : Half := 0x8000#16

/-! ### Quantities -/

/-- QTY (R17, R53). -/
inductive Qty where
  | pos
  | vel
  | acc
  | tqe
deriving DecidableEq, Repr

/-- The numerator of the scale factor `F` (R6). -/
def Qty.factorNum : Qty → Nat
  | .pos => 250
  | .vel => 4000
  | .acc => 1000
  | .tqe => 200

/-- The denominator of the scale factor `F` (R6). -/
def Qty.factorDen : Qty → Nat
  | .pos => 9
  | .vel => 1
  | .acc => 1
  | .tqe => 1

/-- The lower clamp bound: −32767 for a position, whose −32768 is the sentinel (R7). -/
def Qty.lo : Qty → Int
  | .pos => -32767
  | .vel => -32768
  | .acc => -32768
  | .tqe => -32768

/-- The upper clamp bound, the same for every quantity (R7). -/
def fieldHi : Int := 32767

/-! ### binary32 -/

/-- The value of a binary32 pattern (R10). A finite value is the integer `n` times 2^(−149), exactly. -/
inductive F32 where
  | nan
  | inf (neg : Bool)
  | finite (n : Int)
deriving DecidableEq, Repr

/-- The sign bit, bit 31 (R10). -/
def f32Sign (b : Word) : Bool := b.getLsbD 31

/-- The exponent field, bits [30:23] (R10). -/
def f32Exp (b : Word) : Nat := (b.extractLsb' 23 8).toNat

/-- The fraction field, bits [22:0] (R10). -/
def f32Frac (b : Word) : Nat := (b.extractLsb' 0 23).toNat

/-- The magnitude of a finite pattern in units of 2^(−149): `m` when the exponent field is 0, else
`(2^23 + m) × 2^(e−1)` (R10). -/
def f32Mag (e m : Nat) : Nat := if e = 0 then m else (2 ^ 23 + m) * 2 ^ (e - 1)

/-- `−n` or `n`. -/
def signed (neg : Bool) (n : Nat) : Int := if neg then -(n : Int) else (n : Int)

/-- `f32val(b)` (R10). -/
def f32val (b : Word) : F32 :=
  if f32Exp b = 255 then
    if f32Frac b = 0 then .inf (f32Sign b) else .nan
  else .finite (signed (f32Sign b) (f32Mag (f32Exp b) (f32Frac b)))

/-! ### The saturating conversion -/

/-- An exact quotient brought to an integer under `P_ROUND`; RTZ is `trunc` (R11, R64). -/
def roundQuotient (r : Config.Rounding) (num : Int) (den : Nat) : Int :=
  match r with
  | .rtz => num.tdiv (den : Int)

/-- `trunc(v × F(qty))` of the finite value `v = n × 2^(−149)`, from the exact product (R63, R64). -/
def scaledInt (n : Int) (qty : Qty) : Int :=
  roundQuotient Config.pRound (n * (qty.factorNum : Int)) (2 ^ 149 * qty.factorDen)

/-- What `Sat16` returns: the int16 result and the two flags (R65). -/
structure Scaled where
  q   : Int
  sat : Bool
  nan : Bool
deriving DecidableEq, Repr

/-- The clamp of `Sat16` (R65). -/
def clampScaled (qty : Qty) (n : Int) : Scaled :=
  if n > fieldHi then ⟨fieldHi, true, false⟩
  else if n < qty.lo then ⟨qty.lo, true, false⟩
  else ⟨n, false, false⟩

/-- `Sat16(b, qty)` (R65). -/
def sat16 (b : Word) (qty : Qty) : Scaled :=
  match f32val b with
  | .nan => ⟨0, false, true⟩
  | .inf false => ⟨fieldHi, true, false⟩
  | .inf true => ⟨qty.lo, true, false⟩
  | .finite n => clampScaled qty (scaledInt n qty)

/-! ### The inverse conversion -/

/-- The unit exponent `k` for a magnitude `a / d`: `2^23 ≤ a / (d × 2^k) < 2^24` (R12). -/
def unitExp (a d : Nat) : Int :=
  let k : Int := (a.log2 : Int) - (d.log2 : Int) - 23
  if a * 2 ^ (-k).toNat < 2 ^ 23 * (d * 2 ^ k.toNat) then k - 1 else k

/-- `num / den` to the nearest integer, ties to even (R12). -/
def roundHalfEven (num den : Nat) : Nat :=
  let sig := num / den
  let rest := num % den
  if 2 * rest > den ∨ (2 * rest = den ∧ sig % 2 = 1) then sig + 1 else sig

/-- The binary32 pattern, without its sign, of a magnitude `a / d`: the significand in units of `2^k`,
rounded, above the exponent field (a carry out of the significand moves the exponent up by one). Only
magnitudes in the normal range are ever converted (R74; log entry 9). -/
def rne32Mag (a d : Nat) : Nat :=
  let k := unitExp a d
  (k + 149).toNat * 2 ^ 23 + roundHalfEven (a * 2 ^ (-k).toNat) (d * 2 ^ k.toNat)

/-- `rne32(p / d)` (R12). -/
def rne32 (p : Int) (d : Nat) : Word :=
  if p = 0 then 0#32
  else BitVec.ofNat 32 ((if p < 0 then 2 ^ 31 else 0) + rne32Mag p.natAbs d)

/-- `rne32(q / F(qty))` of an int16 field (R75 to R78). -/
def descale (h : Half) (qty : Qty) : Word :=
  rne32 (s16 h * (qty.factorDen : Int)) qty.factorNum

end Sys2Proof.Machine
end

