-- ==== Sys2Proof/Machine/State.lean ====
section
/-! DEFINITION. The state of the block: the fifteen registers of 10_state.md section 3 (the spec gives
no other state, R32), and the model's own view of the port. -/

namespace Sys2Proof.Machine

/-- The block's registers and the port. -/
structure State where
  /-- CMD, offset 0x00 (R17). -/
  cmd : Word
  /-- OPA, offset 0x04 (R18). -/
  opa : Word
  /-- OPB, offset 0x08 (R18). -/
  opb : Word
  /-- OPC, offset 0x0C (R18). -/
  opc : Word
  /-- PIN0, offset 0x10 (R19). -/
  pin0 : Word
  /-- PIN1, offset 0x14 (R19). -/
  pin1 : Word
  /-- PLEN, offset 0x18; bits [31:4] are 0 (R20). -/
  plen : Word
  /-- RES0, offset 0x20 (R21). -/
  res0 : Word
  /-- RES1, offset 0x24 (R21). -/
  res1 : Word
  /-- RES2, offset 0x28 (R21). -/
  res2 : Word
  /-- POUT0, offset 0x30 (R22). -/
  pout0 : Word
  /-- POUT1, offset 0x34 (R22). -/
  pout1 : Word
  /-- ARB, offset 0x38 (R23). -/
  arb : Word
  /-- DLC, offset 0x3C (R24). -/
  dlc : Word
  /-- STATUS, offset 0x40 (R25). -/
  status : Word
  /-- MODEL'S OWN (log entry 1): the events the port has yet to take, in order (R46). -/
  port : List PortEvent
  /-- MODEL'S OWN (log entry 3): what the port answered to the last access (R43). -/
  response : Response
  /-- MODEL'S OWN (log entry 4): the index of the next free value (I5). -/
  freeCount : Nat
deriving DecidableEq, Repr

/-- The block after reset: every register is 0 (R34, R115). The port's three fields are the model's
(log entries 1, 3, 4). -/
def State.reset : State where
  cmd := 0
  opa := 0
  opb := 0
  opc := 0
  pin0 := 0
  pin1 := 0
  plen := 0
  res0 := 0
  res1 := 0
  res2 := 0
  pout0 := 0
  pout1 := 0
  arb := 0
  dlc := 0
  status := 0
  port := []
  response := .none
  freeCount := 0

/-- The block has no fault, trap or stop (60_exceptions.md R105 to R107): command errors are defined
outcomes that write STATUS (R101). So there is no constructor (log entry 11). -/
inductive Fault where
deriving DecidableEq, Repr

/-- Why the model gives no next state. -/
inductive Refusal where
  /-- Raised by an arm of `exec` for a command with no meaning yet; no arm raises it. Safe. -/
  | notModelled (mnemonic : String)
  /-- Raised by the port for an access that is not 32 bits wide (R42, R104, I2). Safe: the model stops. -/
  | undefinedWidth
  /-- Raised by the port for an access whose offset is not a multiple of 4 (R42, R104, I3). Safe. -/
  | misaligned
  /-- Raised by the port for an access outside the 256-byte window (R35, I4). Safe. -/
  | outsideWindow
deriving DecidableEq, Repr

/-- The outcome of a command or a step. -/
abbrev Result := Host.Outcome State Fault Refusal

end Sys2Proof.Machine
end

