-- ==== Sys2Proof/Machine/Ops.lean ====
section
/-! DEFINITION. The named operations over the registers and payloads: the register map, completing a
command, raising a command error (10_state.md, 30_encoding.md R56, R57, 60_exceptions.md R101). -/

namespace Sys2Proof.Machine

/-! ### The register map -/

/-- The registers of the map (10_state.md section 3). -/
inductive Reg where
  | cmd | opa | opb | opc | pin0 | pin1 | plen
  | res0 | res1 | res2 | pout0 | pout1 | arb | dlc | status
deriving DecidableEq, Repr

/-- The register's offset in the window (10_state.md section 3). -/
def Reg.offset : Reg → BitVec 8
  | .cmd => 0x00#8
  | .opa => 0x04#8
  | .opb => 0x08#8
  | .opc => 0x0C#8
  | .pin0 => 0x10#8
  | .pin1 => 0x14#8
  | .plen => 0x18#8
  | .res0 => 0x20#8
  | .res1 => 0x24#8
  | .res2 => 0x28#8
  | .pout0 => 0x30#8
  | .pout1 => 0x34#8
  | .arb => 0x38#8
  | .dlc => 0x3C#8
  | .status => 0x40#8

/-- The register an offset names; `none` for a reserved offset (R30). -/
def regAt (o : BitVec 8) : Option Reg :=
  match o.toNat with
  | 0x00 => some .cmd
  | 0x04 => some .opa
  | 0x08 => some .opb
  | 0x0C => some .opc
  | 0x10 => some .pin0
  | 0x14 => some .pin1
  | 0x18 => some .plen
  | 0x20 => some .res0
  | 0x24 => some .res1
  | 0x28 => some .res2
  | 0x30 => some .pout0
  | 0x34 => some .pout1
  | 0x38 => some .arb
  | 0x3C => some .dlc
  | 0x40 => some .status
  | _ => none

/-- `x[NAME]` (R9). -/
def readReg (s : State) : Reg → Word
  | .cmd => s.cmd
  | .opa => s.opa
  | .opb => s.opb
  | .opc => s.opc
  | .pin0 => s.pin0
  | .pin1 => s.pin1
  | .plen => s.plen
  | .res0 => s.res0
  | .res1 => s.res1
  | .res2 => s.res2
  | .pout0 => s.pout0
  | .pout1 => s.pout1
  | .arb => s.arb
  | .dlc => s.dlc
  | .status => s.status

/-- The bits of a register that are not reserved; the others read as 0 at all times (R20, R23 to R25,
I9). -/
def definedBits : Reg → Word
  | .plen => 0x0000000F#32
  | .arb => 0x9FFFFFFF#32
  | .dlc => 0x0000000F#32
  | .status => 0x800F3777#32
  | .cmd | .opa | .opb | .opc | .pin0 | .pin1 => 0xFFFFFFFF#32
  | .res0 | .res1 | .res2 | .pout0 | .pout1 => 0xFFFFFFFF#32

/-- The value `HostRead(o)` returns: the register with its reserved bits as 0, or 0 at a reserved
offset (R30, R43). -/
def hostRead (s : State) (o : BitVec 8) : Word :=
  match regAt o with
  | some r => readReg s r &&& definedBits r
  | none => 0#32

/-- The value PLEN stores when `v` is written: `zext_32(v[3:0])` (R20, R43). -/
def plenStored (v : Word) : Word := (v.extractLsb' 0 4).setWidth 32

/-! ### The address map -/

/-- Where a host address goes: host address `P_BASE + o` is offset `o`, for `o` in [0x00, 0xFF] (R35). -/
def targetOf (addr : Nat) : Target :=
  if Config.pBase ≤ addr ∧ addr < Config.pBase + 0x100 then
    .window (BitVec.ofNat 8 (addr - Config.pBase))
  else .outside addr

/-! ### Payloads -/

/-- A payload P[0..7], `b0` the first byte on the wire (R13). -/
structure Payload where
  b0 : Byte
  b1 : Byte
  b2 : Byte
  b3 : Byte
  b4 : Byte
  b5 : Byte
  b6 : Byte
  b7 : Byte
deriving DecidableEq, Repr

/-- The payload of a command that emits none (R57). -/
def Payload.zero : Payload := ⟨0, 0, 0, 0, 0, 0, 0, 0⟩

/-- Payload bytes 0 to 3 as a register, byte `i` at bits [8i+7:8i] (R19, R22, R39, R56). -/
def Payload.lowWord (p : Payload) : Word := concat4 p.b3 p.b2 p.b1 p.b0

/-- Payload bytes 4 to 7 as a register (R19, R22, R39, R56). -/
def Payload.highWord (p : Payload) : Word := concat4 p.b7 p.b6 p.b5 p.b4

/-- The payload held by two registers (R19, R39). -/
def Payload.ofWords (lo hi : Word) : Payload :=
  ⟨byteOf lo 0, byteOf lo 1, byteOf lo 2, byteOf lo 3, byteOf hi 0, byteOf hi 1, byteOf hi 2, byteOf hi 3⟩

/-- PIN[0..7] (R19). -/
def pinPayload (s : State) : Payload := Payload.ofWords s.pin0 s.pin1

/-- PLEN.LEN, bits [3:0] (R20). -/
def pinLength (s : State) : Nat := (s.plen.extractLsb' 0 4).toNat

/-- The padding byte (R81). -/
def padByte : Byte := 0x50#8

/-! ### Completing and failing -/

/-- What an operation produces. A result its rule does not name is 0 (R56, R57). -/
structure Results where
  res0  : Word := 0#32
  res1  : Word := 0#32
  res2  : Word := 0#32
  pout  : Payload := Payload.zero
  arb   : Word := 0#32
  dlc   : BitVec 4 := 0#4
  flags : Flags := {}
deriving DecidableEq, Repr

/-- ARB: IDE in bit 31, [30:29] = 0, ID in [28:0] (R23). -/
def arbWord (ide : Bool) (id : BitVec 29) : Word := BitVec.ofBool ide ++ 0#2 ++ id

/-- A motor identifier as an arbitration identifier: `zext_29(MID)` (R53). -/
def midId (mid : Byte) : BitVec 29 := mid.setWidth 29

/-- A command that completes writes every result register and STATUS, and nothing else (R56, R57). -/
def complete (r : Results) (s : State) : State :=
  { s with
    res0 := r.res0
    res1 := r.res1
    res2 := r.res2
    pout0 := r.pout.lowWord
    pout1 := r.pout.highWord
    arb := r.arb
    dlc := r.dlc.setWidth 32
    status := completedStatus r.flags }

/-- `raise CmdError(code)`: the block's only exception. It writes STATUS and no other register; there is
no trap entry, saved state or return (R101, R106, R107). -/
def raise (e : CmdError) (s : State) : State :=
  { s with status := errorStatus e }

end Sys2Proof.Machine
end

