-- ==== Sys2Proof/Machine/FrameDecode.lean ====
section
/-! DEFINITION. The frame decoders (42_frame_decode.md). -/

namespace Sys2Proof.Machine

/-- Run a decoder unless PLEN[3:0] > 8, which raises BAD_LEN before anything is read (R56, R100). -/
def withFrameLength (r : Results) (s : State) : Result :=
  if pinLength s > 8 then .next (raise .badLen s) else .next (complete r s)

/-- The results of DEC_STREAM: all eight bytes are read whatever LEN is (R94). -/
def decStreamResults (s : State) : Results :=
  let p := pinPayload s
  let pos := concat2 p.b1 p.b0
  let vel := concat2 p.b3 p.b2
  let f2 := concat2 p.b5 p.b4
  { res0 := sext32 pos
    res1 := sext32 vel
    res2 := sext32 f2
    flags :=
      { sent := pos == sentinel
        padOk := p.b6 == padByte && p.b7 == padByte
        len8 := pinLength s == 8 } }

/-- The results of DEC_DISC: the name needs LEN ≥ 4 and PIN[0] = 0x51, the hardware version needs
LEN ≥ 8 alone (R96). -/
def decDiscResults (s : State) : Results :=
  let p := pinPayload s
  let nameV := decide (pinLength s ≥ 4) && p.b0 == 0x51#8
  let hwV := decide (pinLength s ≥ 8)
  { res0 := if nameV then concat4 0x00#8 p.b3 p.b2 p.b1 else 0#32
    res1 := if hwV then concat4 p.b7 p.b6 p.b5 p.b4 else 0#32
    flags := { nameV := nameV, hwV := hwV } }

/-- DEC.STREAM (R94). -/
def execDecStream (s : State) : Result := withFrameLength (decStreamResults s) s

/-- DEC.DISC (R96). -/
def execDecDisc (s : State) : Result := withFrameLength (decDiscResults s) s

end Sys2Proof.Machine
end

