-- ==== Sys2Proof/Machine/FrameEncode.lean ====
section
/-! DEFINITION. The frame encoders (41_frame_encode.md). -/

namespace Sys2Proof.Machine

/-- `PackStream(pos, vel, f2)` (R83). -/
def packStream (pos vel f2 : Half) : Payload :=
  ⟨lowByte pos, highByte pos, lowByte vel, highByte vel, lowByte f2, highByte f2, padByte, padByte⟩

/-- One int16 field of a stream frame with the SAT and NAN flags it sets (R26). -/
structure StreamField where
  field : Half
  sat   : Bool := false
  nan   : Bool := false
deriving DecidableEq, Repr

/-- A field scaled from a binary32 operand (R89, R92). -/
def floatField (b : Word) (qty : Qty) : StreamField :=
  let r := sat16 b qty
  ⟨u16 r.q, r.sat, r.nan⟩

/-- A raw int16 field, with no flag (R90, R91). -/
def rawField (b : Word) : StreamField := { field := rawOperand b }

/-- The position field: the sentinel under VO, else the field `p` (R84). -/
def positionField (vo : Bool) (p : StreamField) : StreamField :=
  if vo then { field := sentinel } else p

/-- The arbitration identifier of the stream 0x90 frame (R86). -/
def stream90Id : BitVec 29 := 0x090#29

/-- The arbitration identifier of the stream 0xAD frame (R86). -/
def streamADId : BitVec 29 := 0x0AD#29

/-- An ENC_STREAM command: the three fields to payload, results, identifier and flags (R83, R85, R86,
R89 to R92). -/
def streamResults (id : BitVec 29) (p v f : StreamField) : Results where
  res0 := sext32 p.field
  res1 := sext32 v.field
  res2 := sext32 f.field
  pout := packStream p.field v.field f.field
  arb := arbWord false id
  dlc := 8#4
  flags :=
    { sat0 := p.sat, sat1 := v.sat, sat2 := f.sat
      nan0 := p.nan, nan1 := v.nan, nan2 := f.nan
      sent := p.field == sentinel }

/-- ENC.90F (R89). -/
def execEnc90f (vo : Bool) (s : State) : Result :=
  .next (complete (streamResults stream90Id (positionField vo (floatField s.opa .pos))
    (floatField s.opb .vel) (floatField s.opc .tqe)) s)

/-- ENC.90R (R90). -/
def execEnc90r (vo : Bool) (s : State) : Result :=
  .next (complete (streamResults stream90Id (positionField vo (rawField s.opa))
    (rawField s.opb) (rawField s.opc)) s)

/-- ENC.ADF (R92). -/
def execEncAdf (vo : Bool) (s : State) : Result :=
  .next (complete (streamResults streamADId (positionField vo (floatField s.opa .pos))
    (floatField s.opb .vel) (floatField s.opc .acc)) s)

/-- ENC.ADR (R91). -/
def execEncAdr (vo : Bool) (s : State) : Result :=
  .next (complete (streamResults streamADId (positionField vo (rawField s.opa))
    (rawField s.opb) (rawField s.opc)) s)

/-- ENC.MODE (R88). -/
def execEncMode (mode mid : Byte) (s : State) : Result :=
  .next (complete
    { pout := ⟨0x01#8, 0x00#8, mode, padByte, padByte, padByte, padByte, padByte⟩
      arb := arbWord false (midId mid)
      dlc := 8#4 } s)

/-- ENC.REGW: the pattern in OPA is copied, not converted (R87). -/
def execEncRegw (addr mid : Byte) (s : State) : Result :=
  .next (complete
    { pout := ⟨0x0D#8, addr, byteOf s.opa 0, byteOf s.opa 1, byteOf s.opa 2, byteOf s.opa 3, padByte, padByte⟩
      arb := arbWord false (midId mid)
      dlc := 8#4 } s)

/-- ENC.PING: the identifier is 0x8000 OR MID, extended (R93). -/
def execEncPing (mid : Byte) (s : State) : Result :=
  .next (complete
    { pout := ⟨0x11#8, 0x00#8, padByte, padByte, padByte, padByte, padByte, padByte⟩
      arb := arbWord true (0x8000#29 ||| midId mid)
      dlc := 8#4 } s)

end Sys2Proof.Machine
end

