-- ==== Sys2Proof/Machine/Scaler.lean ====
section
/-! DEFINITION. SCALE and DESCALE (40_scaler.md). -/

namespace Sys2Proof.Machine

/-- The SCALE template: RES0 = sext_32(u16(q)), SAT0 and NAN0 carry the flags (40_scaler.md section 2). -/
def scaleResults (qty : Qty) (s : State) : Results :=
  let r := sat16 s.opa qty
  { res0 := sext32 (u16 r.q), flags := { sat0 := r.sat, nan0 := r.nan } }

/-- The DESCALE template: RES0 = rne32(q / F) of OPA[15:0], no flag (40_scaler.md section 3). -/
def descaleResults (qty : Qty) (s : State) : Results :=
  { res0 := descale (rawOperand s.opa) qty }

/-- SCALE.POS (R70). -/
def execScalePos (s : State) : Result := .next (complete (scaleResults .pos s) s)

/-- SCALE.VEL (R71). -/
def execScaleVel (s : State) : Result := .next (complete (scaleResults .vel s) s)

/-- SCALE.ACC (R72). -/
def execScaleAcc (s : State) : Result := .next (complete (scaleResults .acc s) s)

/-- SCALE.TQE (R73). -/
def execScaleTqe (s : State) : Result := .next (complete (scaleResults .tqe s) s)

/-- DESCALE.POS (R75). -/
def execDescalePos (s : State) : Result := .next (complete (descaleResults .pos s) s)

/-- DESCALE.VEL (R76). -/
def execDescaleVel (s : State) : Result := .next (complete (descaleResults .vel s) s)

/-- DESCALE.ACC (R77). -/
def execDescaleAcc (s : State) : Result := .next (complete (descaleResults .acc s) s)

/-- DESCALE.TQE (R78). -/
def execDescaleTqe (s : State) : Result := .next (complete (descaleResults .tqe s) s)

end Sys2Proof.Machine
end

