-- ==== Sys2Proof/Machine/Dispatch.lean ====
section
/-! DEFINITION. The meaning of each command, one arm per constructor (30_encoding.md R54, R56). The
command word itself stands in CMD before its meaning runs (20_memory.md R43). -/

namespace Sys2Proof.Machine

def exec (i : Instr) (s : State) : Host.Outcome State Fault Refusal :=
  match i with
  | .scalePos => Sys2Proof.Machine.execScalePos s
  | .scaleVel => Sys2Proof.Machine.execScaleVel s
  | .scaleAcc => Sys2Proof.Machine.execScaleAcc s
  | .scaleTqe => Sys2Proof.Machine.execScaleTqe s
  | .descalePos => Sys2Proof.Machine.execDescalePos s
  | .descaleVel => Sys2Proof.Machine.execDescaleVel s
  | .descaleAcc => Sys2Proof.Machine.execDescaleAcc s
  | .descaleTqe => Sys2Proof.Machine.execDescaleTqe s
  | .enc90f vo => Sys2Proof.Machine.execEnc90f vo s
  | .enc90r vo => Sys2Proof.Machine.execEnc90r vo s
  | .encAdf vo => Sys2Proof.Machine.execEncAdf vo s
  | .encAdr vo => Sys2Proof.Machine.execEncAdr vo s
  | .encMode mode mid => Sys2Proof.Machine.execEncMode mode mid s
  | .encRegw addr mid => Sys2Proof.Machine.execEncRegw addr mid s
  | .encPing mid => Sys2Proof.Machine.execEncPing mid s
  | .decStream => Sys2Proof.Machine.execDecStream s
  | .decDisc => Sys2Proof.Machine.execDecDisc s

end Sys2Proof.Machine
end

