-- ==== Sys2Proof/Machine/Access.lean ====
section
/-! DEFINITION. The port: host accesses, the execution of a CMD write, reset (20_memory.md R42 to R46,
30_encoding.md R56, 70_reset_and_hazards.md R115, R117). -/

namespace Sys2Proof.Machine

/-- `Execute(c)` (R56). `c` stands in CMD already (R43). -/
def executeCommand (c : Word) (s : State) : Result :=
  match decode c with
  | .ok i => exec i s
  | .error e => .next (raise e s)

/-- `HostWrite(o, v)` (R43). -/
def hostWrite (o : BitVec 8) (v : Word) (s : State) : Result :=
  match regAt o with
  | some .cmd => executeCommand v { s with cmd := v }
  | some .opa => .next { s with opa := v }
  | some .opb => .next { s with opb := v }
  | some .opc => .next { s with opc := v }
  | some .pin0 => .next { s with pin0 := v }
  | some .pin1 => .next { s with pin1 := v }
  | some .plen => .next { s with plen := plenStored v }
  -- a RO register ignores the write (R31)
  | some .res0 => .next s
  | some .res1 => .next s
  | some .res2 => .next s
  | some .pout0 => .next s
  | some .pout1 => .next s
  | some .arb => .next s
  | some .dlc => .next s
  | some .status => .next s
  -- a reserved offset ignores the write (R30)
  | none => .next s

/-- Why the port does not take an access, if it does not (R35, R42, R104, I2 to I4). -/
def accessRefusal (a : Access) : Option Refusal :=
  if a.inWindow = false then some .outsideWindow
  else if a.isWord = false then some .undefinedWidth
  else if a.aligned = false then some .misaligned
  else none

/-- The offset an access names in the window. -/
def accessOffset (a : Access) : BitVec 8 :=
  match a.target with
  | .window o => o
  | .outside _ => 0#8

/-- An access the port takes, completed whole (R43, R45). -/
def completeAccess (a : Access) (s : State) : Result :=
  match a.kind with
  | .read => .next { s with response := .readData (hostRead s (accessOffset a)) }
  | .write v => hostWrite (accessOffset a) v { s with response := .writeDone }

/-- Every register at its reset value (R34, R115). The events not yet taken stay at the port, and the
model's free-value counter goes on. -/
def resetRegisters (s : State) : State :=
  { State.reset with port := s.port, freeCount := s.freeCount }

/-- Reset during an access: the command is abandoned and every register is 0 (R117). What the
interrupted access returns is free (I5; log entries 4 and 5). -/
def resetDuringAccess (a : Access) (s : State) : State :=
  match a.kind with
  | .read =>
    { resetRegisters s with
      response := .readData (Config.interruptedRead s.freeCount)
      freeCount := s.freeCount + 1 }
  | .write _ => { resetRegisters s with response := .writeInterrupted }

/-- One event at the port (R46). -/
def takeEvent (e : PortEvent) (s : State) : Result :=
  match e with
  | .access a =>
    match accessRefusal a with
    | some r => .refused r
    | none => completeAccess a s
  | .reset => .next (resetRegisters s)
  | .resetDuring a =>
    match accessRefusal a with
    | some r => .refused r
    | none => .next (resetDuringAccess a s)

/-- The port with no event to take: nothing changes (R114; log entry 2). -/
def idle (s : State) : Result := .next s

/-- The host access that issues a command word: an aligned 32-bit write to CMD (R15, R60). -/
def commandWrite (c : Word) : PortEvent := .access ⟨.window Reg.cmd.offset, 32, .write c⟩

/-- Put a command write in front of the events waiting at the port. -/
def pushCommand (c : Word) (s : State) : State := { s with port := commandWrite c :: s.port }

end Sys2Proof.Machine
end

