-- ==== Sys2Proof/Machine/Step.lean ====
section
/-! DEFINITION. One step of the block: it takes the next event at its port (20_memory.md R46, R123). -/

namespace Sys2Proof.Machine

/-- Take the next event waiting at the port; with none, nothing changes. -/
def step (s : State) : Host.Outcome State Fault Refusal :=
  match s.port with
  | [] => idle s
  | e :: rest => takeEvent e { s with port := rest }

/-- The state whose next step writes this word to CMD: the block fetches nothing, a command is the value
a host writes to CMD (R15, R50). -/
def State.withFetchWord (s : State) (nbits w : Nat) : State :=
  pushCommand (tableWord nbits w) s

end Sys2Proof.Machine
end

