-- ==== Sys2Proof/Machine/Program.lean ====
section
/-! DEFINITION. The notation of host programs: access lines, mnemonics and pseudo-instructions
(30_encoding.md R60, R61). It names port events and commands; it adds no behaviour. -/

namespace Sys2Proof.Machine

/-- `wr REG, value` (R60). -/
def wr (r : Reg) (v : Word) : PortEvent := .access ⟨.window r.offset, 32, .write v⟩

/-- `rd REG` (R60). -/
def rd (r : Reg) : PortEvent := .access ⟨.window r.offset, 32, .read⟩

/-- A command mnemonic: `wr CMD, word` (R60). -/
def issue (i : Instr) : PortEvent := wr .cmd (encode i)

/-- The literal `i16(n)`: zext_32(u16(n)) (R60). -/
def i16Literal (n : Int) : Word := (u16 n).setWidth 32

/-- The block with the events of a host program waiting at its port. -/
def State.withProgram (s : State) (p : List PortEvent) : State := { s with port := p }

/-- `set.angle` (R61). -/
def setAngle : Instr := .enc90f false

/-- `stream.vel` (R61). -/
def streamVel : Instr := .encAdf true

/-- `enc.ad` and `enc.ad.vo` (R61). -/
def encAd (vo : Bool) : Instr := .encAdr vo

/-- `enable.pos mid` (R61). -/
def enablePos (mid : Byte) : Instr := .encMode 0x0A#8 mid

/-- `disable mid` (R61). -/
def disable (mid : Byte) : Instr := .encMode 0x00#8 mid

/-- `li REG, value` (R61). -/
def li (r : Reg) (v : Word) : PortEvent := wr r v

end Sys2Proof.Machine
end

