-- ==== Sys2Proof/Safety.lean ====
section
/-! DEFINITION. The terms statements are made in: the invariant of the registers, and the spec's own
arithmetic on exact rationals, written from its words and apart from the meanings
(00_scope.md R6, R7, R10 to R12, 40_scaler.md R65). No definition of the machine uses this file. -/

namespace Sys2Proof.Machine

/-! ### The registers' invariant -/

/-- STATUS.ERR, bits [19:16] (R25). -/
def errOf (status : Word) : Nat := status.toNat / 2 ^ 16 % 16

/-- What holds of the registers at all times. -/
structure State.RegInv (s : State) : Prop where
  /-- PLEN[31:4] read as 0 (R20, I9). -/
  plen_reserved : s.plen &&& 0xFFFFFFF0#32 = 0#32
  /-- ARB[30:29] are always 0 (R23). -/
  arb_reserved : s.arb &&& 0x60000000#32 = 0#32
  /-- For a standard frame, ID < 0x800 (R23). -/
  arb_standard : s.arb.getLsbD 31 = false → s.arb.toNat < 0x800
  /-- DLC is 8 after an encoder and 0 otherwise (R24). -/
  dlc_length : s.dlc = 0#32 ∨ s.dlc = 8#32
  /-- Every STATUS bit not listed is 0 (R25). -/
  status_reserved : s.status &&& 0x7FF0C888#32 = 0#32
  /-- Codes 0x4 to 0xF are never written (R97). -/
  error_code : errOf s.status ≤ 3
  /-- An error leaves every flag 0 (R101). -/
  error_no_flag : errOf s.status ≠ 0 → s.status &&& 0x00003777#32 = 0#32
  /-- SATk and NANk are never both 1 (R26). -/
  sat_nan : ∀ k : Fin 3, ¬(s.status.getLsbD k.val = true ∧ s.status.getLsbD (k.val + 4) = true)
  /-- DONE = 0 means that no operation has executed: STATUS is 0 (R29). -/
  not_done : s.status.getLsbD 31 = false → s.status = 0#32
  /-- Until an operation has executed, the result registers hold their reset value (R21 to R24, R34). -/
  results_at_reset : s.status = 0#32 →
    s.res0 = 0#32 ∧ s.res1 = 0#32 ∧ s.res2 = 0#32 ∧ s.pout0 = 0#32 ∧ s.pout1 = 0#32 ∧
      s.arb = 0#32 ∧ s.dlc = 0#32

/-- The registers a command reads hold the same in both states (R16). -/
def sameOperands (s t : State) : Prop :=
  s.opa = t.opa ∧ s.opb = t.opb ∧ s.opc = t.opc ∧ s.pin0 = t.pin0 ∧ s.pin1 = t.pin1 ∧ s.plen = t.plen

/-- The result registers, STATUS apart, hold the same in both states (R57). -/
def sameResults (s t : State) : Prop :=
  s.res0 = t.res0 ∧ s.res1 = t.res1 ∧ s.res2 = t.res2 ∧ s.pout0 = t.pout0 ∧ s.pout1 = t.pout1 ∧
    s.arb = t.arb ∧ s.dlc = t.dlc

/-- Every register of the map is 0 (R34). -/
def allRegistersZero (s : State) : Prop :=
  s.cmd = 0#32 ∧ s.opa = 0#32 ∧ s.opb = 0#32 ∧ s.opc = 0#32 ∧ s.pin0 = 0#32 ∧ s.pin1 = 0#32 ∧
    s.plen = 0#32 ∧ s.res0 = 0#32 ∧ s.res1 = 0#32 ∧ s.res2 = 0#32 ∧ s.pout0 = 0#32 ∧
    s.pout1 = 0#32 ∧ s.arb = 0#32 ∧ s.dlc = 0#32 ∧ s.status = 0#32

/-! ### Families of commands -/

/-- SCALE of a quantity. -/
def scaleInstr : Qty → Instr
  | .pos => .scalePos
  | .vel => .scaleVel
  | .acc => .scaleAcc
  | .tqe => .scaleTqe

/-- DESCALE of a quantity. -/
def descaleInstr : Qty → Instr
  | .pos => .descalePos
  | .vel => .descaleVel
  | .acc => .descaleAcc
  | .tqe => .descaleTqe

/-- ENC_STREAM with RAW = 0: stream 0x90 or 0xAD (FT). -/
def floatStream (ft vo : Bool) : Instr := if ft then .encAdf vo else .enc90f vo

/-- ENC_STREAM with RAW = 1: stream 0x90 or 0xAD (FT). -/
def rawStream (ft vo : Bool) : Instr := if ft then .encAdr vo else .enc90r vo

/-- The ENC_STREAM command of CMD.FT, CMD.RAW and CMD.VO (R17, R54). -/
def streamInstr (ft raw vo : Bool) : Instr := if raw then rawStream ft vo else floatStream ft vo

/-- The commands that emit a frame (41_frame_encode.md). -/
def isEncoder : Instr → Bool
  | .enc90f _ | .enc90r _ | .encAdf _ | .encAdr _ | .encMode _ _ | .encRegw _ _ | .encPing _ => true
  | .scalePos | .scaleVel | .scaleAcc | .scaleTqe => false
  | .descalePos | .descaleVel | .descaleAcc | .descaleTqe | .decStream | .decDisc => false

/-- The commands that read a received payload (42_frame_decode.md). -/
def isDecoder : Instr → Bool
  | .decStream | .decDisc => true
  | .enc90f _ | .enc90r _ | .encAdf _ | .encAdr _ | .encMode _ _ | .encRegw _ _ | .encPing _ => false
  | .scalePos | .scaleVel | .scaleAcc | .scaleTqe => false
  | .descalePos | .descaleVel | .descaleAcc | .descaleTqe => false

/-- The must-be-zero mask Z(OP) of a defined OP (R55). -/
def mustBeZero (op : Nat) : Word :=
  if op = 1 ∨ op = 2 then 0xFFFFFFC0#32
  else if op = 3 then 0xFFFFFE30#32
  else if op = 4 ∨ op = 5 then 0x0000FFF0#32
  else if op = 6 then 0x00FFFFF0#32
  else 0xFFFFFFF0#32

/-! ### Exact arithmetic -/

/-- The scale factors in physical form (R6). -/
def scaleFactor : Qty → ℚ
  | .pos => 10000 / 360
  | .vel => 4000
  | .acc => 1000
  | .tqe => 200

/-- The lower bound of the clamp (R7). -/
def lowBound : Qty → ℤ
  | .pos => -32767
  | .vel | .acc | .tqe => -32768

/-- The exponent field of a binary32 pattern (R10). -/
def expField (b : Word) : Nat := b.toNat / 2 ^ 23 % 256

/-- The fraction field of a binary32 pattern (R10). -/
def fracField (b : Word) : Nat := b.toNat % 2 ^ 23

/-- A NaN pattern (R10). -/
def isNaN (b : Word) : Prop := expField b = 255 ∧ fracField b ≠ 0

/-- A finite pattern (R10). -/
def isFinite (b : Word) : Prop := expField b ≠ 255

/-- The value of a finite pattern (R10). -/
def ratOf (b : Word) : ℚ :=
  (if 2 ^ 31 ≤ b.toNat then -1 else 1) *
    (if expField b = 0 then (fracField b : ℚ) * (2 : ℚ) ^ (-149 : ℤ)
     else (2 ^ 23 + fracField b : ℚ) * (2 : ℚ) ^ ((expField b : ℤ) - 150))

/-- `trunc(r)` (R11). -/
def truncRat (r : ℚ) : ℤ := if 0 ≤ r then ⌊r⌋ else ⌈r⌉

/-- `Sat16(b, qty)`, transcribed from R65 over exact rationals. -/
def refSat16 (b : Word) (qty : Qty) : Scaled :=
  if expField b = 255 then
    if fracField b ≠ 0 then ⟨0, false, true⟩
    else if b.toNat < 2 ^ 31 then ⟨32767, true, false⟩
    else ⟨lowBound qty, true, false⟩
  else
    let n := truncRat (ratOf b * scaleFactor qty)
    if n > 32767 then ⟨32767, true, false⟩
    else if n < lowBound qty then ⟨lowBound qty, true, false⟩
    else ⟨n, false, false⟩

/-- `p` is the binary32 pattern nearest `r`, ties to the pattern with an even fraction field, and +0
for 0: the meaning of `rne32(r) = p` (R12). -/
def isRne32 (r : ℚ) (p : Word) : Prop :=
  isFinite p ∧ (r = 0 → p = 0#32) ∧
    (∀ b : Word, isFinite b → |ratOf p - r| ≤ |ratOf b - r|) ∧
    (∀ b : Word, isFinite b → ratOf b ≠ ratOf p → |ratOf b - r| = |ratOf p - r| → fracField p % 2 = 0)

/-- The physical value of an int16 field `q / F` (R74). -/
def physical (q : ℤ) (qty : Qty) : ℚ := (q : ℚ) / scaleFactor qty

end Sys2Proof.Machine
end

