-- ==== Sys2Proof/Certificates/Slice0/Obligations.lean ====
section
/-! DEFINITION. The statements for the provers. Each docstring names the rules it rests on. `port`,
`response` and `freeCount` are the model's own fields (log entries 1, 3, 4): where a statement says what
becomes of them, that clause is the model's choice, not a rule of the spec. -/

open Sys2Proof Sys2Proof.Machine

/-! ### Encoding -/

/-- The encoder and decoder agree on every command, with every operand (30_encoding.md R52 to R55, R60). -/
def Obligations.DecodeOfEncodeIsIdentity : Prop :=
  ∀ i : Instr, i.wellFormed = true → decode (encode i) = .ok i

/-- Every accepted CMD value is the one encoding of its command: no bit is dropped and there are no
aliases (R55, R58; 92_eei_decisions.md D36). -/
def Obligations.EncodeOfDecodeIsIdentity : Prop :=
  ∀ (c : Word) (i : Instr), decode c = .ok i → encode i = c

/-- Words written out bit by bit from R52 and the table of R60 decode to their commands, one or more of
each family. -/
def Obligations.DecodeReadsWrittenWords : Prop :=
  decode 0b00000000_00000000_0000000_0_0_0_01_0001#32 = .ok .scaleVel ∧
  decode 0b00000000_00000000_0000000_0_0_0_11_0010#32 = .ok .descaleTqe ∧
  decode 0b00000000_00000000_0000000_0_0_1_00_0011#32 = .ok (.enc90f true) ∧
  decode 0b00000000_00000000_0000000_0_1_0_00_0011#32 = .ok (.enc90r false) ∧
  decode 0b00000000_00000000_0000000_1_0_1_00_0011#32 = .ok (.encAdf true) ∧
  decode 0b00000000_00000000_0000000_1_1_0_00_0011#32 = .ok (.encAdr false) ∧
  decode 0b00000001_00001010_0000000_0_0_0_00_0100#32 = .ok (.encMode 0x0A#8 0x01#8) ∧
  decode 0b11111110_00100001_0000000_0_0_0_00_0101#32 = .ok (.encRegw 0x21#8 0xFE#8) ∧
  decode 0b00000101_00000000_0000000_0_0_0_00_0110#32 = .ok (.encPing 0x05#8) ∧
  decode 0b00000000_00000000_0000000_0_0_0_00_0111#32 = .ok .decStream ∧
  decode 0b00000000_00000000_0000000_0_0_0_00_1000#32 = .ok .decDisc

/-- Which CMD values are refused, and by which of the two command-word errors (R55, R97 to R99). That
BAD_LEN is never among the decoder's answers is how the model splits the errors (log entry 10): R97 and
R100 leave it to the decoder commands, since the length is not part of the command word. -/
def Obligations.DecodeErrorsAreIllegalOpAndReservedField : Prop :=
  ∀ c : Word,
    (decode c = .error .illegalOp ↔ c.toNat % 16 = 0 ∨ 9 ≤ c.toNat % 16) ∧
    (decode c = .error .rsvField ↔
      1 ≤ c.toNat % 16 ∧ c.toNat % 16 ≤ 8 ∧ c &&& mustBeZero (c.toNat % 16) ≠ 0#32) ∧
    decode c ≠ .error .badLen

/-! ### The step and the port -/

/-- A step that takes a write to CMD stores the word in CMD and runs the command it encodes (R43, R56).
Around it the step drops the access from the port and records that the write completed, which is the
model's choice (log entries 1 and 3). -/
def Obligations.StepRunsDecodedCommand : Prop :=
  ∀ (s : State) (c : Word) (rest : List PortEvent) (i : Instr),
    s.port = .access ⟨.window 0x00#8, 32, .write c⟩ :: rest → decode c = .ok i → i.wellFormed = true →
    step s = exec i { s with port := rest, response := .writeDone, cmd := c }

/-- A write to CMD of an illegal OP writes STATUS = 0x80010000 and, CMD apart, no other register,
whatever the other fields and registers hold (R98, R101). -/
def Obligations.IllegalOpWritesOnlyStatus : Prop :=
  ∀ (s : State) (c : Word) (rest : List PortEvent),
    s.port = .access ⟨.window 0x00#8, 32, .write c⟩ :: rest →
    (c.toNat % 16 = 0 ∨ 9 ≤ c.toNat % 16) →
    ∃ t, step s = .next t ∧
      t = { s with port := t.port, response := t.response, cmd := c, status := 0x80010000#32 }

/-- A write to CMD of a defined OP with a nonzero must-be-zero bit writes STATUS = 0x80020000 and, CMD
apart, no other register (R99, R101). -/
def Obligations.ReservedFieldWritesOnlyStatus : Prop :=
  ∀ (s : State) (c : Word) (rest : List PortEvent),
    s.port = .access ⟨.window 0x00#8, 32, .write c⟩ :: rest →
    1 ≤ c.toNat % 16 → c.toNat % 16 ≤ 8 → c &&& mustBeZero (c.toNat % 16) ≠ 0#32 →
    ∃ t, step s = .next t ∧
      t = { s with port := t.port, response := t.response, cmd := c, status := 0x80020000#32 }

/-- STATUS.ERR after a write to CMD: ILLEGAL_OP first, then RSV_FIELD, then BAD_LEN, else none
(R98 to R100, R103). -/
def Obligations.ErrorCodePriority : Prop :=
  ∀ (s : State) (c : Word) (rest : List PortEvent),
    s.port = .access ⟨.window 0x00#8, 32, .write c⟩ :: rest →
    ∃ t, step s = .next t ∧
      errOf t.status =
        if c.toNat % 16 = 0 ∨ 9 ≤ c.toNat % 16 then 1
        else if c &&& mustBeZero (c.toNat % 16) ≠ 0#32 then 2
        else if 7 ≤ c.toNat % 16 ∧ 8 < s.plen.toNat % 16 then 3
        else 0

/-- A read of a register returns its value, reserved bits as 0, and changes no register (R43, R44). That
the value is held in `response` is the model's choice (log entry 3). -/
def Obligations.ReadsReturnRegistersUnchanged : Prop :=
  ∀ (s : State) (o : BitVec 8) (rest : List PortEvent),
    s.port = .access ⟨.window o, 32, .read⟩ :: rest → o.toNat % 4 = 0 →
    step s = .next { s with
      port := rest
      response := .readData
        (if o = 0x00#8 then s.cmd else if o = 0x04#8 then s.opa else if o = 0x08#8 then s.opb
         else if o = 0x0C#8 then s.opc else if o = 0x10#8 then s.pin0 else if o = 0x14#8 then s.pin1
         else if o = 0x18#8 then s.plen &&& 0x0000000F#32
         else if o = 0x20#8 then s.res0 else if o = 0x24#8 then s.res1 else if o = 0x28#8 then s.res2
         else if o = 0x30#8 then s.pout0 else if o = 0x34#8 then s.pout1
         else if o = 0x38#8 then s.arb &&& 0x9FFFFFFF#32
         else if o = 0x3C#8 then s.dlc &&& 0x0000000F#32
         else if o = 0x40#8 then s.status &&& 0x800F3777#32
         else 0#32) }

/-- A write to an operand or payload input register stores its value and has no other effect; PLEN
stores bits [3:0] only (R18 to R20, R43, R44). `port` and `response` are the model's (log entries 1, 3). -/
def Obligations.OperandWritesStoreTheirValue : Prop :=
  ∀ (s : State) (o : BitVec 8) (v : Word) (rest : List PortEvent),
    s.port = .access ⟨.window o, 32, .write v⟩ :: rest →
    (o = 0x04#8 → step s = .next { s with port := rest, response := .writeDone, opa := v }) ∧
    (o = 0x08#8 → step s = .next { s with port := rest, response := .writeDone, opb := v }) ∧
    (o = 0x0C#8 → step s = .next { s with port := rest, response := .writeDone, opc := v }) ∧
    (o = 0x10#8 → step s = .next { s with port := rest, response := .writeDone, pin0 := v }) ∧
    (o = 0x14#8 → step s = .next { s with port := rest, response := .writeDone, pin1 := v }) ∧
    (o = 0x18#8 →
      step s = .next { s with port := rest, response := .writeDone, plen := v &&& 0x0000000F#32 })

/-- A host write to a RO register changes no register and raises no error (R31). -/
def Obligations.ReadOnlyRegistersIgnoreWrites : Prop :=
  ∀ (s : State) (o : BitVec 8) (v : Word) (rest : List PortEvent),
    s.port = .access ⟨.window o, 32, .write v⟩ :: rest →
    o ∈ [0x20#8, 0x24#8, 0x28#8, 0x30#8, 0x34#8, 0x38#8, 0x3C#8, 0x40#8] →
    ∃ t, step s = .next t ∧ t = { s with port := t.port, response := t.response }

/-- A reserved offset reads as 0 and ignores writes, with no side effect (R30). `port` and `response` are
the model's (log entries 1, 3). -/
def Obligations.ReservedOffsetsReadZeroIgnoreWrites : Prop :=
  ∀ (s : State) (o : BitVec 8) (rest : List PortEvent),
    o.toNat % 4 = 0 → (o = 0x1C#8 ∨ o = 0x2C#8 ∨ 0x44 ≤ o.toNat) →
    (s.port = .access ⟨.window o, 32, .read⟩ :: rest →
      step s = .next { s with port := rest, response := .readData 0#32 }) ∧
    (∀ v, s.port = .access ⟨.window o, 32, .write v⟩ :: rest →
      step s = .next { s with port := rest, response := .writeDone })

/-- An access of the window that is not 32 bits wide, or not aligned, is refused (R42, R104). That a
narrow misaligned access takes the name of its width is the model's choice (log entry 12). -/
def Obligations.NarrowOrMisalignedAccessesAreRefused : Prop :=
  ∀ (s : State) (o : BitVec 8) (w : Nat) (k : AccessKind) (rest : List PortEvent),
    s.port = .access ⟨.window o, w, k⟩ :: rest →
    (w ≠ 32 → step s = .refused .undefinedWidth) ∧
    (w = 32 → o.toNat % 4 ≠ 0 → step s = .refused .misaligned)

/-- An access outside the 256-byte window is refused (93_implementation_defined.md I4; log entry 6). -/
def Obligations.AccessesOutsideTheWindowAreRefused : Prop :=
  ∀ (s : State) (a w : Nat) (k : AccessKind) (rest : List PortEvent),
    s.port = .access ⟨.outside a, w, k⟩ :: rest → step s = .refused .outsideWindow

/-- Offset `o` of the window is host address `P_BASE + o`, and `P_BASE` is a multiple of 0x100, so the
offset is address bits [7:0] (R4, R35). That an offset has this one host address, and that every address
before or after these 256 is outside, is the model's choice: R35 leaves to the platform whether the window
repeats elsewhere (log entry 6). -/
def Obligations.HostAddressesMapToOffsets : Prop :=
  0x100 ∣ Config.pBase ∧
  (∀ o : BitVec 8, targetOf (Config.pBase + o.toNat) = .window o) ∧
  (∀ (a : Nat) (o : BitVec 8), targetOf a = .window o → a % 0x100 = o.toNat ∧ a = Config.pBase + o.toNat) ∧
  (∀ a : Nat, a < Config.pBase ∨ Config.pBase + 0xFF < a → targetOf a = .outside a)

/-- What a host writes to a writable register other than PLEN, CMD among them, a read then returns,
whether or not the command written fails (R17 to R19, R43). `port` and `response` are the model's (log
entries 1, 3). -/
def Obligations.WrittenRegistersReadBack : Prop :=
  ∀ (s : State) (r : Reg) (v : Word) (rest : List PortEvent),
    r ∈ [Reg.cmd, .opa, .opb, .opc, .pin0, .pin1] → s.port = wr r v :: rd r :: rest →
    ∃ t u, step s = .next t ∧ step t = .next u ∧ u.port = rest ∧ u.response = .readData v

/-- Reset sets every register of the map to 0, in the state after reset and in every state reset lands
in, and executes no command (R34, R115). That a reset is one event, and that the events not yet taken
stay at the port, is the model's choice (log entry 8). -/
def Obligations.ResetZeroesEveryRegister : Prop :=
  allRegistersZero State.reset ∧
  ∀ (s : State) (rest : List PortEvent), s.port = .reset :: rest →
    ∃ t, step s = .next t ∧ allRegistersZero t ∧ t.port = rest

/-- Reset during an access abandons it: every register is 0 and no result of the command survives
(R117). That an interrupted read answers the free value `Config.interruptedRead`, and that the counter
then advances, is the model's choice (log entry 4), and so is that the events not yet taken stay at the
port (log entry 8). -/
def Obligations.ResetAbandonsTheAccessInProgress : Prop :=
  ∀ (s : State) (o : BitVec 8) (k : AccessKind) (rest : List PortEvent),
    s.port = .resetDuring ⟨.window o, 32, k⟩ :: rest → o.toNat % 4 = 0 →
    ∃ t, step s = .next t ∧ allRegistersZero t ∧ t.port = rest ∧
      (k = .read → t.response = .readData (Config.interruptedRead s.freeCount) ∧
        t.freeCount = s.freeCount + 1)

/-- Only a write to CMD and a reset change CMD, a result register or STATUS: every other access keeps
them (R44), and a step with no event at the port keeps the whole state (R114; that there is such a step is
the model's choice, log entry 2). -/
def Obligations.OnlyCommandWritesAndResetChangeResults : Prop :=
  ∀ s : State,
    (∀ (t : State) (a : Access) (rest : List PortEvent),
      s.port = .access a :: rest → step s = .next t →
      ¬(a.target = .window 0x00#8 ∧ ∃ c, a.kind = .write c) →
      t.cmd = s.cmd ∧ t.status = s.status ∧ sameResults t s) ∧
    (s.port = [] → step s = .next s)

/-! ### All commands -/

/-- A command never writes an operand or payload input register or CMD (R18 to R20, R56). `port`,
`response` and `freeCount` are the model's (log entries 1, 3, 4): that a command keeps them is its choice. -/
def Obligations.CommandsLeaveOperandsAlone : Prop :=
  ∀ (i : Instr) (s t : State), exec i s = .next t →
    sameOperands t s ∧ t.cmd = s.cmd ∧ t.port = s.port ∧ t.response = s.response ∧
      t.freeCount = s.freeCount

/-- DONE is 0 after reset and 1 after every execution, with or without error. On every state the
invariant holds of, a STATUS of 0 is DONE = 0; a STATUS of 0x80000000 is DONE = 1 with no error and no
flag (R29). -/
def Obligations.EveryCommandSetsDone : Prop :=
  State.reset.status.getLsbD 31 = false ∧
  (∀ (s : State) (c : Word) (rest : List PortEvent),
    s.port = .access ⟨.window 0x00#8, 32, .write c⟩ :: rest →
    ∃ t, step s = .next t ∧ t.status.getLsbD 31 = true) ∧
  (∀ s : State, s.RegInv → (s.status = 0#32 ↔ s.status.getLsbD 31 = false)) ∧
  (∀ s : State, s.status = 0x80000000#32 →
    s.status.getLsbD 31 = true ∧ errOf s.status = 0 ∧ s.status &&& 0x00003777#32 = 0#32)

/-- No operand value causes an error: outside a decoder's length, every command completes (R102). -/
def Obligations.OperandValuesNeverFail : Prop :=
  ∀ (i : Instr) (s : State), (isDecoder i = true → s.plen.toNat % 16 ≤ 8) →
    ∃ t, exec i s = .next t ∧ errOf t.status = 0

/-- The result of a write to CMD is a function of CMD and the operand and payload input registers alone:
not of earlier results, STATUS or the port (R16). -/
def Obligations.ResultsDependOnlyOnOperands : Prop :=
  ∀ (s t : State) (c : Word) (ps pt : List PortEvent),
    s.port = .access ⟨.window 0x00#8, 32, .write c⟩ :: ps →
    t.port = .access ⟨.window 0x00#8, 32, .write c⟩ :: pt → sameOperands s t →
    ∃ s' t', step s = .next s' ∧ step t = .next t' ∧ s'.status = t'.status ∧ s'.cmd = t'.cmd ∧
      (errOf s'.status = 0 → sameResults s' t')

/-- Executing the same command twice on the same operands leaves the same state twice (R16, R44). -/
def Obligations.RepeatedCommandChangesNothing : Prop :=
  ∀ (i : Instr) (s t : State), exec i s = .next t → exec i t = .next t

/-- A command that fails writes STATUS only, with every flag 0; RES0 to RES2, POUT0, POUT1, ARB and DLC
keep their values (R57, R101). `port` and `response` are the model's (log entries 1, 3). -/
def Obligations.FailedCommandsKeepResults : Prop :=
  ∀ (s t : State) (c : Word) (rest : List PortEvent),
    s.port = .access ⟨.window 0x00#8, 32, .write c⟩ :: rest → step s = .next t →
    errOf t.status ≠ 0 →
    t = { s with port := rest, response := .writeDone, cmd := c, status := t.status } ∧
      t.status = 0x80000000#32 ||| (BitVec.ofNat 32 (errOf t.status) <<< 16)

/-- DLC after a command that completes: 8 for an encoder, 0 for every other (R24, R82). -/
def Obligations.CompletedCommandsWriteDlc : Prop :=
  ∀ (i : Instr) (s t : State), exec i s = .next t → errOf t.status = 0 →
    t.dlc = if isEncoder i then 8#32 else 0#32

/-- The registers' invariant holds after reset (R34). -/
def Obligations.RegisterInvariantAtReset : Prop := State.reset.RegInv

/-- Every step keeps the registers' invariant: reserved bits stay 0, DLC is 0 or 8, a standard
identifier is below 0x800, SATk and NANk are never both 1, an error has no flag, and before the first
command the results hold their reset value (R20 to R26, R29, R97, R101). -/
def Obligations.StepKeepsRegisterInvariant : Prop :=
  ∀ s t : State, s.RegInv → step s = .next t → t.RegInv

/-! ### The scaler -/

/-- `Sat16` of every pattern and quantity is the rule's, over exact rationals (R63 to R65). -/
def Obligations.Sat16FollowsItsRule : Prop :=
  ∀ (b : Word) (qty : Qty), sat16 b qty = refSat16 b qty

/-- The four SCALE commands: RES0 = sext_32(u16(q)), STATUS carries SAT0 and NAN0, every other result
register is 0, and nothing else changes (R57, R70 to R73). -/
def Obligations.ScaleCommandsWriteSat16 : Prop :=
  ∀ (qty : Qty) (s : State), exec (scaleInstr qty) s = .next { s with
    res0 := BitVec.ofInt 32 (refSat16 s.opa qty).q
    res1 := 0#32, res2 := 0#32, pout0 := 0#32, pout1 := 0#32, arb := 0#32, dlc := 0#32
    status := BitVec.ofNat 32
      (2 ^ 31 + (refSat16 s.opa qty).sat.toNat + 16 * (refSat16 s.opa qty).nan.toNat) }

/-- `Sat16` never wraps: its result is in range, and is the nearer bound whenever the exact truncated
product lies outside (R66). -/
def Obligations.Sat16NeverWraps : Prop :=
  ∀ (b : Word) (qty : Qty),
    lowBound qty ≤ (sat16 b qty).q ∧ (sat16 b qty).q ≤ 32767 ∧
    (isFinite b → 32767 < truncRat (ratOf b * scaleFactor qty) → (sat16 b qty).q = 32767) ∧
    (isFinite b → truncRat (ratOf b * scaleFactor qty) < lowBound qty → (sat16 b qty).q = lowBound qty)

/-- A scaled position is never the sentinel: not from `Sat16`, and not in RES0 of SCALE.POS (R67). -/
def Obligations.ScaledPositionIsNeverSentinel : Prop :=
  (∀ b : Word, (sat16 b .pos).q ≠ -32768) ∧
  ∀ s : State, ∃ t, exec .scalePos s = .next t ∧ t.res0 ≠ 0xFFFF8000#32

/-- The values at which `Sat16` saturates, and its largest and smallest unsaturated results, for each
quantity (R68). -/
def Obligations.SaturationThresholds : Prop :=
  ∀ b : Word, isFinite b →
    ((sat16 b .pos).sat = true ↔ 1179.648 ≤ ratOf b ∨ ratOf b ≤ -1179.648) ∧
    (1179.648 ≤ ratOf b → (sat16 b .pos).q = 32767) ∧
    (ratOf b ≤ -1179.648 → (sat16 b .pos).q = -32767) ∧
    (1179.612 ≤ ratOf b ∧ ratOf b < 1179.648 → (sat16 b .pos).q = 32767) ∧
    (-1179.648 < ratOf b ∧ ratOf b ≤ -1179.612 → (sat16 b .pos).q = -32767) ∧
    ((sat16 b .vel).sat = true ↔ 8.192 ≤ ratOf b ∨ ratOf b ≤ -8.19225) ∧
    (8.192 ≤ ratOf b → (sat16 b .vel).q = 32767) ∧
    (ratOf b ≤ -8.192 → (sat16 b .vel).q = -32768) ∧
    ((sat16 b .acc).sat = true ↔ 32.768 ≤ ratOf b ∨ ratOf b ≤ -32.769) ∧
    (32.768 ≤ ratOf b → (sat16 b .acc).q = 32767) ∧
    (ratOf b ≤ -32.768 → (sat16 b .acc).q = -32768) ∧
    ((sat16 b .tqe).sat = true ↔ 163.84 ≤ ratOf b ∨ ratOf b ≤ -163.845) ∧
    (163.84 ≤ ratOf b → (sat16 b .tqe).q = 32767) ∧
    (ratOf b ≤ -163.84 → (sat16 b .tqe).q = -32768)

/-- The corners of `Sat16`: zeros, subnormals and every magnitude below 1/F give 0 unsaturated; every
NaN gives 0 with the NaN flag (R69). -/
def Obligations.Sat16Corners : Prop :=
  ∀ (b : Word) (qty : Qty),
    (expField b = 0 → sat16 b qty = ⟨0, false, false⟩) ∧
    (isFinite b → |ratOf b| < 1 / scaleFactor qty → sat16 b qty = ⟨0, false, false⟩) ∧
    (isNaN b → sat16 b qty = ⟨0, false, true⟩)

/-- The four DESCALE commands: RES0 is the binary32 pattern nearest q / F of OPA[15:0], ties to even,
STATUS = 0x80000000, every other result register is 0 and nothing else changes (R12, R57, R75 to R78). -/
def Obligations.DescaleIsNearestEven : Prop :=
  ∀ (qty : Qty) (s : State), ∃ p : Word,
    isRne32 (physical (s.opa.extractLsb' 0 16).toInt qty) p ∧
    exec (descaleInstr qty) s = .next { s with
      res0 := p
      res1 := 0#32, res2 := 0#32, pout0 := 0#32, pout1 := 0#32, arb := 0#32, dlc := 0#32
      status := 0x80000000#32 }

/-- Every int16 field's physical value is 0 or of magnitude 1/4000 to 1179.648, and DESCALE of it is +0
or a normal finite binary32 (R74). -/
def Obligations.DescaleResultIsZeroOrNormal : Prop :=
  ∀ (h : Half) (qty : Qty),
    (physical h.toInt qty = 0 ∨
      (1 / 4000 ≤ |physical h.toInt qty| ∧ |physical h.toInt qty| ≤ 1179.648)) ∧
    (descale h qty = 0#32 ∨ (1 ≤ expField (descale h qty) ∧ expField (descale h qty) ≤ 254)) ∧
    (h = 0#16 → descale h qty = 0#32)

/-- SCALE then DESCALE of an unsaturated value stays within one quantization step, plus half the
binary32 spacing at q / F, bounded for each quantity (R79). -/
def Obligations.ScaleDescaleWithinOneStep : Prop :=
  ∀ (b : Word) (qty : Qty), isFinite b →
    (lowBound qty : ℚ) < ratOf b * scaleFactor qty → ratOf b * scaleFactor qty < 32768 →
    |physical (sat16 b qty).q qty - ratOf b| < 1 / scaleFactor qty ∧
    |ratOf (descale (u16 (sat16 b qty).q) qty) - ratOf b| <
      1 / scaleFactor qty + (match qty with
        | .pos => 1 / 2 ^ 14
        | .vel => 1 / 2 ^ 21
        | .acc => 1 / 2 ^ 19
        | .tqe => 1 / 2 ^ 17)

/-- SCALE after DESCALE gives the field back, or the field one step toward zero, unsaturated (R80). -/
def Obligations.ScaleAfterDescaleIsWithinOneStepOfZero : Prop :=
  ∀ (h : Half) (qty : Qty), lowBound qty ≤ h.toInt →
    (sat16 (descale h qty) qty).sat = false ∧ (sat16 (descale h qty) qty).nan = false ∧
    ((sat16 (descale h qty) qty).q = h.toInt ∨
      (0 < h.toInt ∧ (sat16 (descale h qty) qty).q = h.toInt - 1) ∨
      (h.toInt < 0 ∧ (sat16 (descale h qty) qty).q = h.toInt + 1))

/-! ### The encoders -/

/-- The stream frames from physical values: fields, payload, identifier, length and flags, and nothing
else changes (R83, R84, R89, R92). -/
def Obligations.FloatStreamFrames : Prop :=
  ∀ (ft vo : Bool) (s : State) (p v f : Scaled),
    p = (if vo then ⟨-32768, false, false⟩ else refSat16 s.opa .pos) →
    v = refSat16 s.opb .vel → f = refSat16 s.opc (if ft then .acc else .tqe) →
    exec (floatStream ft vo) s = .next { s with
      res0 := BitVec.ofInt 32 p.q, res1 := BitVec.ofInt 32 v.q, res2 := BitVec.ofInt 32 f.q
      pout0 := BitVec.ofInt 16 v.q ++ BitVec.ofInt 16 p.q
      pout1 := 0x5050#16 ++ BitVec.ofInt 16 f.q
      arb := if ft then 0x000000AD#32 else 0x00000090#32
      dlc := 8#32
      status := BitVec.ofNat 32
        (2 ^ 31 + p.sat.toNat + 2 * v.sat.toNat + 4 * f.sat.toNat + 16 * p.nan.toNat +
          32 * v.nan.toNat + 64 * f.nan.toNat + 256 * (decide (p.q = -32768)).toNat) }

/-- The stream frames from raw int16 fields, bits [31:16] of each operand ignored; SENT is the only flag
(R83, R84, R90, R91). -/
def Obligations.RawStreamFrames : Prop :=
  ∀ (ft vo : Bool) (s : State) (p v f : Half),
    p = (if vo then 0x8000#16 else s.opa.extractLsb' 0 16) →
    v = s.opb.extractLsb' 0 16 → f = s.opc.extractLsb' 0 16 →
    exec (rawStream ft vo) s = .next { s with
      res0 := BitVec.ofInt 32 p.toInt, res1 := BitVec.ofInt 32 v.toInt, res2 := BitVec.ofInt 32 f.toInt
      pout0 := v ++ p
      pout1 := 0x5050#16 ++ f
      arb := if ft then 0x000000AD#32 else 0x00000090#32
      dlc := 8#32
      status := if p = 0x8000#16 then 0x80000100#32 else 0x80000000#32 }

/-- The register-write frame: OPA's pattern passes unchanged, no flag (R87). -/
def Obligations.RegisterWriteFrame : Prop :=
  ∀ (addr mid : Byte) (s : State), exec (.encRegw addr mid) s = .next { s with
    res0 := 0#32, res1 := 0#32, res2 := 0#32
    pout0 := s.opa.extractLsb' 8 8 ++ s.opa.extractLsb' 0 8 ++ addr ++ 0x0D#8
    pout1 := 0x5050#16 ++ s.opa.extractLsb' 24 8 ++ s.opa.extractLsb' 16 8
    arb := BitVec.ofNat 32 mid.toNat, dlc := 8#32, status := 0x80000000#32 }

/-- The mode-write frame (R88). -/
def Obligations.ModeWriteFrame : Prop :=
  ∀ (mode mid : Byte) (s : State), exec (.encMode mode mid) s = .next { s with
    res0 := 0#32, res1 := 0#32, res2 := 0#32
    pout0 := 0x50#8 ++ mode ++ 0x0001#16
    pout1 := 0x50505050#32
    arb := BitVec.ofNat 32 mid.toNat, dlc := 8#32, status := 0x80000000#32 }

/-- The discovery ping: a payload that does not depend on MID, and an extended identifier (R93). -/
def Obligations.PingFrame : Prop :=
  ∀ (mid : Byte) (s : State), exec (.encPing mid) s = .next { s with
    res0 := 0#32, res1 := 0#32, res2 := 0#32
    pout0 := 0x50500011#32
    pout1 := 0x50505050#32
    arb := BitVec.ofNat 32 (0x80008000 + mid.toNat), dlc := 8#32, status := 0x80000000#32 }

/-- SENT after a stream encoder is 1 exactly when the emitted position field is 0x8000, which is when
VO = 1, or RAW = 1 and OPA[15:0] = 0x8000; so never when RAW = 0 and VO = 0 (R85). -/
def Obligations.SentFlagMarksTheSentinel : Prop :=
  ∀ (ft raw vo : Bool) (s : State), ∃ t, exec (streamInstr ft raw vo) s = .next t ∧
    (t.status.getLsbD 8 = true ↔ t.pout0.extractLsb' 0 16 = 0x8000#16) ∧
    (t.status.getLsbD 8 = true ↔ vo = true ∨ (raw = true ∧ s.opa.extractLsb' 0 16 = 0x8000#16))

/-- Under VO = 1 the sentinel bytes 0x00, 0x80 are the position field, OPA is not read, and
SAT0 = NAN0 = 0, for both frame types and both operand forms (R84). -/
def Obligations.VelocityOnlyDoesNotReadOpa : Prop :=
  ∀ (ft raw : Bool) (s : State), ∃ t, exec (streamInstr ft raw true) s = .next t ∧
    t.pout0.extractLsb' 0 8 = 0x00#8 ∧ t.pout0.extractLsb' 8 8 = 0x80#8 ∧
    t.status.getLsbD 0 = false ∧ t.status.getLsbD 4 = false ∧
    ∀ x : Word, exec (streamInstr ft raw true) { s with opa := x } = .next { t with opa := x }

/-- The arbitration identifier of each encoder; IDE only for the ping; ARB[30:29] = 0 (R86). -/
def Obligations.ArbitrationIdentifiers : Prop :=
  ∀ (i : Instr) (s t : State), isEncoder i = true → exec i s = .next t →
    t.arb.extractLsb' 29 2 = 0#2 ∧
    (t.arb.getLsbD 31 = true ↔ ∃ mid, i = .encPing mid) ∧
    (∀ vo, i = .enc90f vo ∨ i = .enc90r vo → t.arb.extractLsb' 0 29 = 0x090#29) ∧
    (∀ vo, i = .encAdf vo ∨ i = .encAdr vo → t.arb.extractLsb' 0 29 = 0x0AD#29) ∧
    (∀ x mid, i = .encMode x mid ∨ i = .encRegw x mid → t.arb.extractLsb' 0 29 = BitVec.ofNat 29 mid.toNat) ∧
    (∀ mid, i = .encPing mid → t.arb.extractLsb' 0 29 = 0x8000#29 ||| BitVec.ofNat 29 mid.toNat)

/-- Every padding byte an encoder emits is 0x50 (R81): payload bytes 6 and 7 of every encoder, bytes 3 to
5 of the mode write and bytes 2 to 5 of the ping. -/
def Obligations.EncodersPadWith0x50 : Prop :=
  ∀ (i : Instr) (s t : State), isEncoder i = true → exec i s = .next t →
    t.pout1.extractLsb' 16 16 = 0x5050#16 ∧
    (∀ mode mid, i = .encMode mode mid →
      t.pout0.extractLsb' 24 8 = 0x50#8 ∧ t.pout1.extractLsb' 0 16 = 0x5050#16) ∧
    (∀ mid, i = .encPing mid →
      t.pout0.extractLsb' 16 16 = 0x5050#16 ∧ t.pout1.extractLsb' 0 16 = 0x5050#16)

/-! ### The decoders -/

/-- DEC_STREAM unpacks the three int16 fields of all eight PIN bytes, whatever LEN ≤ 8 is; SENT, PAD_OK
and LEN8 report, and nothing else changes (R57, R94). -/
def Obligations.StreamDecodeResults : Prop :=
  ∀ s : State, s.plen.toNat % 16 ≤ 8 → exec .decStream s = .next { s with
    res0 := (s.pin0.extractLsb' 0 16).signExtend 32
    res1 := (s.pin0.extractLsb' 16 16).signExtend 32
    res2 := (s.pin1.extractLsb' 0 16).signExtend 32
    pout0 := 0#32, pout1 := 0#32, arb := 0#32, dlc := 0#32
    status := BitVec.ofNat 32
      (2 ^ 31 + 256 * (decide (s.pin0.extractLsb' 0 16 = 0x8000#16)).toNat +
        512 * (decide (s.pin1.extractLsb' 16 16 = 0x5050#16)).toNat +
        1024 * (decide (s.plen.toNat % 16 = 8)).toNat) }

/-- DEC_DISC: the name when LEN ≥ 4 and PIN[0] = 0x51, the hardware version when LEN = 8 whatever
PIN[0] is, each omitted otherwise with no error, and nothing else changes (R57, R96). -/
def Obligations.DiscoveryDecodeResults : Prop :=
  ∀ s : State, s.plen.toNat % 16 ≤ 8 → exec .decDisc s = .next { s with
    res0 := if 4 ≤ s.plen.toNat % 16 ∧ s.pin0.toNat % 256 = 0x51 then s.pin0 >>> 8 else 0#32
    res1 := if s.plen.toNat % 16 = 8 then s.pin1 else 0#32
    res2 := 0#32, pout0 := 0#32, pout1 := 0#32, arb := 0#32, dlc := 0#32
    status := BitVec.ofNat 32
      (2 ^ 31 + 4096 * (decide (4 ≤ s.plen.toNat % 16 ∧ s.pin0.toNat % 256 = 0x51)).toNat +
        8192 * (decide (s.plen.toNat % 16 = 8)).toNat) }

/-- A decoder with PLEN[3:0] in 9 to 15 raises BAD_LEN and writes STATUS only; every other command,
whatever PLEN holds, and a decoder with a length up to 8, never raises it (R97, R100, R101). -/
def Obligations.OnlyDecodersRaiseBadLen : Prop :=
  ∀ (i : Instr) (s : State),
    (isDecoder i = true → 8 < s.plen.toNat % 16 → exec i s = .next { s with status := 0x80030000#32 }) ∧
    (isDecoder i = false ∨ s.plen.toNat % 16 ≤ 8 → ∃ t, exec i s = .next t ∧ errOf t.status ≠ 3)

/-- Bytes of PIN beyond LEN are never copied to a result of DEC_DISC: payloads that agree on their first
LEN bytes give the same results (R96). -/
def Obligations.DiscoveryIgnoresBytesBeyondLength : Prop :=
  ∀ (s t : State), s.plen = t.plen → s.plen.toNat % 16 ≤ 8 →
    (∀ k : Nat, k < s.plen.toNat % 16 →
      (s.pin1 ++ s.pin0).extractLsb' (8 * k) 8 = (t.pin1 ++ t.pin0).extractLsb' (8 * k) 8) →
    ∃ s' t', exec .decDisc s = .next s' ∧ exec .decDisc t = .next t' ∧
      sameResults s' t' ∧ s'.status = t'.status

/-- Pack and unpack of int16 fields are exact inverses: the payload a raw ENC_STREAM with VO = 0 emits,
written to PIN0 and PIN1 with PLEN = 8, decodes to the same fields, with PAD_OK = LEN8 = 1 and
SENT = (p = −32768) (R95). -/
def Obligations.StreamPayloadRoundTrip : Prop :=
  ∀ (ft : Bool) (s : State) (p v f : Half),
    s.opa.extractLsb' 0 16 = p → s.opb.extractLsb' 0 16 = v → s.opc.extractLsb' 0 16 = f →
    ∃ t u, exec (rawStream ft false) s = .next t ∧
      exec .decStream { t with pin0 := t.pout0, pin1 := t.pout1, plen := 8#32 } = .next u ∧
      u.res0 = p.signExtend 32 ∧ u.res1 = v.signExtend 32 ∧ u.res2 = f.signExtend 32 ∧
      u.status.getLsbD 9 = true ∧ u.status.getLsbD 10 = true ∧
      (u.status.getLsbD 8 = true ↔ p.toInt = -32768)
end

