-- ==== Sys2Proof/Laws/Decode.lean ====
section
/-! SUPPORT. The fields of a command word, and what the decoder can answer. -/

namespace Sys2Proof

open Machine

theorem opField_toNat (c : Word) : (opField c).toNat = c.toNat % 16 := by
  simp [opField, BitVec.extractLsb'_toNat]

/-- `checkZero` accepts exactly the words with no bit under the mask. -/
theorem checkZero_eq_ok {z c : Word} {i j : Instr} :
    checkZero z c i = .ok j ↔ c &&& z = 0#32 ∧ i = j := by
  unfold checkZero
  split <;> simp_all

/-- `checkZero` refuses, as RSV_FIELD, exactly the words with a bit under the mask. -/
theorem checkZero_eq_error {z c : Word} {i : Instr} {e : CmdError} :
    checkZero z c i = .error e ↔ c &&& z ≠ 0#32 ∧ e = .rsvField := by
  unfold checkZero
  split <;> simp_all [eq_comm]

/-- The command a word of a defined OP selects, its must-be-zero bits apart. -/
def selected (c : Word) : Instr :=
  match c.toNat % 16 with
  | 1 => scaleOf c
  | 2 => descaleOf c
  | 3 => encStreamOf c
  | 4 => .encMode (imm8Field c) (midField c)
  | 5 => .encRegw (imm8Field c) (midField c)
  | 6 => .encPing (midField c)
  | 7 => .decStream
  | _ => .decDisc

/-- The decoder once over: ILLEGAL_OP, or the check of Z(OP) on the selected command. -/
theorem decode_eq (c : Word) :
    decode c = if c.toNat % 16 = 0 ∨ 9 ≤ c.toNat % 16 then .error .illegalOp
      else checkZero (mustBeZero (c.toNat % 16)) c (selected c) := by
  have h : c.toNat % 16 < 16 := Nat.mod_lt _ (by decide)
  unfold decode selected
  rw [opField_toNat]
  generalize c.toNat % 16 = n at h
  interval_cases n <;> rfl

theorem isDecoder_scaleOf (c : Word) : isDecoder (scaleOf c) = false := by
  unfold scaleOf; split <;> rfl

theorem isDecoder_descaleOf (c : Word) : isDecoder (descaleOf c) = false := by
  unfold descaleOf; split <;> rfl

theorem isDecoder_encStreamOf (c : Word) : isDecoder (encStreamOf c) = false := by
  unfold encStreamOf; split <;> rfl

/-- A defined OP selects a decoder exactly when it is 0x7 or 0x8. -/
theorem isDecoder_selected {c : Word} (h0 : c.toNat % 16 ≠ 0) (h9 : c.toNat % 16 < 9) :
    isDecoder (selected c) = true ↔ 7 ≤ c.toNat % 16 := by
  unfold selected
  generalize c.toNat % 16 = n at h0 h9
  interval_cases n <;>
    simp_all [isDecoder_scaleOf, isDecoder_descaleOf, isDecoder_encStreamOf] <;> rfl

end Sys2Proof
end

