-- ==== Sys2Proof/Laws/State.lean ====
section
/-! SUPPORT. One lemma per field per named update of the state, so that no proof unfolds an update. -/

namespace Sys2Proof.Machine

/-! ### complete -/

@[simp] theorem complete_cmd (r : Results) (s : State) : (complete r s).cmd = s.cmd := rfl
@[simp] theorem complete_opa (r : Results) (s : State) : (complete r s).opa = s.opa := rfl
@[simp] theorem complete_opb (r : Results) (s : State) : (complete r s).opb = s.opb := rfl
@[simp] theorem complete_opc (r : Results) (s : State) : (complete r s).opc = s.opc := rfl
@[simp] theorem complete_pin0 (r : Results) (s : State) : (complete r s).pin0 = s.pin0 := rfl
@[simp] theorem complete_pin1 (r : Results) (s : State) : (complete r s).pin1 = s.pin1 := rfl
@[simp] theorem complete_plen (r : Results) (s : State) : (complete r s).plen = s.plen := rfl
@[simp] theorem complete_res0 (r : Results) (s : State) : (complete r s).res0 = r.res0 := rfl
@[simp] theorem complete_res1 (r : Results) (s : State) : (complete r s).res1 = r.res1 := rfl
@[simp] theorem complete_res2 (r : Results) (s : State) : (complete r s).res2 = r.res2 := rfl
@[simp] theorem complete_pout0 (r : Results) (s : State) : (complete r s).pout0 = r.pout.lowWord := rfl
@[simp] theorem complete_pout1 (r : Results) (s : State) : (complete r s).pout1 = r.pout.highWord := rfl
@[simp] theorem complete_arb (r : Results) (s : State) : (complete r s).arb = r.arb := rfl
@[simp] theorem complete_dlc (r : Results) (s : State) : (complete r s).dlc = r.dlc.setWidth 32 := rfl
@[simp] theorem complete_status (r : Results) (s : State) : (complete r s).status = completedStatus r.flags := rfl
@[simp] theorem complete_port (r : Results) (s : State) : (complete r s).port = s.port := rfl
@[simp] theorem complete_response (r : Results) (s : State) : (complete r s).response = s.response := rfl
@[simp] theorem complete_freeCount (r : Results) (s : State) : (complete r s).freeCount = s.freeCount := rfl

/-! ### raise -/

@[simp] theorem raise_cmd (e : CmdError) (s : State) : (raise e s).cmd = s.cmd := rfl
@[simp] theorem raise_opa (e : CmdError) (s : State) : (raise e s).opa = s.opa := rfl
@[simp] theorem raise_opb (e : CmdError) (s : State) : (raise e s).opb = s.opb := rfl
@[simp] theorem raise_opc (e : CmdError) (s : State) : (raise e s).opc = s.opc := rfl
@[simp] theorem raise_pin0 (e : CmdError) (s : State) : (raise e s).pin0 = s.pin0 := rfl
@[simp] theorem raise_pin1 (e : CmdError) (s : State) : (raise e s).pin1 = s.pin1 := rfl
@[simp] theorem raise_plen (e : CmdError) (s : State) : (raise e s).plen = s.plen := rfl
@[simp] theorem raise_res0 (e : CmdError) (s : State) : (raise e s).res0 = s.res0 := rfl
@[simp] theorem raise_res1 (e : CmdError) (s : State) : (raise e s).res1 = s.res1 := rfl
@[simp] theorem raise_res2 (e : CmdError) (s : State) : (raise e s).res2 = s.res2 := rfl
@[simp] theorem raise_pout0 (e : CmdError) (s : State) : (raise e s).pout0 = s.pout0 := rfl
@[simp] theorem raise_pout1 (e : CmdError) (s : State) : (raise e s).pout1 = s.pout1 := rfl
@[simp] theorem raise_arb (e : CmdError) (s : State) : (raise e s).arb = s.arb := rfl
@[simp] theorem raise_dlc (e : CmdError) (s : State) : (raise e s).dlc = s.dlc := rfl
@[simp] theorem raise_status (e : CmdError) (s : State) : (raise e s).status = errorStatus e := rfl
@[simp] theorem raise_port (e : CmdError) (s : State) : (raise e s).port = s.port := rfl
@[simp] theorem raise_response (e : CmdError) (s : State) : (raise e s).response = s.response := rfl
@[simp] theorem raise_freeCount (e : CmdError) (s : State) : (raise e s).freeCount = s.freeCount := rfl

/-! ### resetRegisters -/

@[simp] theorem resetRegisters_cmd (s : State) : (resetRegisters s).cmd = 0#32 := rfl
@[simp] theorem resetRegisters_opa (s : State) : (resetRegisters s).opa = 0#32 := rfl
@[simp] theorem resetRegisters_opb (s : State) : (resetRegisters s).opb = 0#32 := rfl
@[simp] theorem resetRegisters_opc (s : State) : (resetRegisters s).opc = 0#32 := rfl
@[simp] theorem resetRegisters_pin0 (s : State) : (resetRegisters s).pin0 = 0#32 := rfl
@[simp] theorem resetRegisters_pin1 (s : State) : (resetRegisters s).pin1 = 0#32 := rfl
@[simp] theorem resetRegisters_plen (s : State) : (resetRegisters s).plen = 0#32 := rfl
@[simp] theorem resetRegisters_res0 (s : State) : (resetRegisters s).res0 = 0#32 := rfl
@[simp] theorem resetRegisters_res1 (s : State) : (resetRegisters s).res1 = 0#32 := rfl
@[simp] theorem resetRegisters_res2 (s : State) : (resetRegisters s).res2 = 0#32 := rfl
@[simp] theorem resetRegisters_pout0 (s : State) : (resetRegisters s).pout0 = 0#32 := rfl
@[simp] theorem resetRegisters_pout1 (s : State) : (resetRegisters s).pout1 = 0#32 := rfl
@[simp] theorem resetRegisters_arb (s : State) : (resetRegisters s).arb = 0#32 := rfl
@[simp] theorem resetRegisters_dlc (s : State) : (resetRegisters s).dlc = 0#32 := rfl
@[simp] theorem resetRegisters_status (s : State) : (resetRegisters s).status = 0#32 := rfl
@[simp] theorem resetRegisters_port (s : State) : (resetRegisters s).port = s.port := rfl
@[simp] theorem resetRegisters_response (s : State) : (resetRegisters s).response = Response.none := rfl
@[simp] theorem resetRegisters_freeCount (s : State) : (resetRegisters s).freeCount = s.freeCount := rfl

/-! ### pushCommand -/

@[simp] theorem pushCommand_cmd (c : Word) (s : State) : (pushCommand c s).cmd = s.cmd := rfl
@[simp] theorem pushCommand_opa (c : Word) (s : State) : (pushCommand c s).opa = s.opa := rfl
@[simp] theorem pushCommand_opb (c : Word) (s : State) : (pushCommand c s).opb = s.opb := rfl
@[simp] theorem pushCommand_opc (c : Word) (s : State) : (pushCommand c s).opc = s.opc := rfl
@[simp] theorem pushCommand_pin0 (c : Word) (s : State) : (pushCommand c s).pin0 = s.pin0 := rfl
@[simp] theorem pushCommand_pin1 (c : Word) (s : State) : (pushCommand c s).pin1 = s.pin1 := rfl
@[simp] theorem pushCommand_plen (c : Word) (s : State) : (pushCommand c s).plen = s.plen := rfl
@[simp] theorem pushCommand_res0 (c : Word) (s : State) : (pushCommand c s).res0 = s.res0 := rfl
@[simp] theorem pushCommand_res1 (c : Word) (s : State) : (pushCommand c s).res1 = s.res1 := rfl
@[simp] theorem pushCommand_res2 (c : Word) (s : State) : (pushCommand c s).res2 = s.res2 := rfl
@[simp] theorem pushCommand_pout0 (c : Word) (s : State) : (pushCommand c s).pout0 = s.pout0 := rfl
@[simp] theorem pushCommand_pout1 (c : Word) (s : State) : (pushCommand c s).pout1 = s.pout1 := rfl
@[simp] theorem pushCommand_arb (c : Word) (s : State) : (pushCommand c s).arb = s.arb := rfl
@[simp] theorem pushCommand_dlc (c : Word) (s : State) : (pushCommand c s).dlc = s.dlc := rfl
@[simp] theorem pushCommand_status (c : Word) (s : State) : (pushCommand c s).status = s.status := rfl
@[simp] theorem pushCommand_port (c : Word) (s : State) : (pushCommand c s).port = commandWrite c :: s.port := rfl
@[simp] theorem pushCommand_response (c : Word) (s : State) : (pushCommand c s).response = s.response := rfl
@[simp] theorem pushCommand_freeCount (c : Word) (s : State) : (pushCommand c s).freeCount = s.freeCount := rfl

/-! ### withFetchWord -/

@[simp] theorem withFetchWord_cmd (s : State) (nbits w : Nat) : (s.withFetchWord nbits w).cmd = s.cmd := rfl
@[simp] theorem withFetchWord_opa (s : State) (nbits w : Nat) : (s.withFetchWord nbits w).opa = s.opa := rfl
@[simp] theorem withFetchWord_opb (s : State) (nbits w : Nat) : (s.withFetchWord nbits w).opb = s.opb := rfl
@[simp] theorem withFetchWord_opc (s : State) (nbits w : Nat) : (s.withFetchWord nbits w).opc = s.opc := rfl
@[simp] theorem withFetchWord_pin0 (s : State) (nbits w : Nat) : (s.withFetchWord nbits w).pin0 = s.pin0 := rfl
@[simp] theorem withFetchWord_pin1 (s : State) (nbits w : Nat) : (s.withFetchWord nbits w).pin1 = s.pin1 := rfl
@[simp] theorem withFetchWord_plen (s : State) (nbits w : Nat) : (s.withFetchWord nbits w).plen = s.plen := rfl
@[simp] theorem withFetchWord_res0 (s : State) (nbits w : Nat) : (s.withFetchWord nbits w).res0 = s.res0 := rfl
@[simp] theorem withFetchWord_res1 (s : State) (nbits w : Nat) : (s.withFetchWord nbits w).res1 = s.res1 := rfl
@[simp] theorem withFetchWord_res2 (s : State) (nbits w : Nat) : (s.withFetchWord nbits w).res2 = s.res2 := rfl
@[simp] theorem withFetchWord_pout0 (s : State) (nbits w : Nat) : (s.withFetchWord nbits w).pout0 = s.pout0 := rfl
@[simp] theorem withFetchWord_pout1 (s : State) (nbits w : Nat) : (s.withFetchWord nbits w).pout1 = s.pout1 := rfl
@[simp] theorem withFetchWord_arb (s : State) (nbits w : Nat) : (s.withFetchWord nbits w).arb = s.arb := rfl
@[simp] theorem withFetchWord_dlc (s : State) (nbits w : Nat) : (s.withFetchWord nbits w).dlc = s.dlc := rfl
@[simp] theorem withFetchWord_status (s : State) (nbits w : Nat) : (s.withFetchWord nbits w).status = s.status := rfl
@[simp] theorem withFetchWord_port (s : State) (nbits w : Nat) : (s.withFetchWord nbits w).port = commandWrite (tableWord nbits w) :: s.port := rfl
@[simp] theorem withFetchWord_response (s : State) (nbits w : Nat) : (s.withFetchWord nbits w).response = s.response := rfl
@[simp] theorem withFetchWord_freeCount (s : State) (nbits w : Nat) : (s.withFetchWord nbits w).freeCount = s.freeCount := rfl

/-! ### withProgram -/

@[simp] theorem withProgram_cmd (s : State) (p : List PortEvent) : (s.withProgram p).cmd = s.cmd := rfl
@[simp] theorem withProgram_opa (s : State) (p : List PortEvent) : (s.withProgram p).opa = s.opa := rfl
@[simp] theorem withProgram_opb (s : State) (p : List PortEvent) : (s.withProgram p).opb = s.opb := rfl
@[simp] theorem withProgram_opc (s : State) (p : List PortEvent) : (s.withProgram p).opc = s.opc := rfl
@[simp] theorem withProgram_pin0 (s : State) (p : List PortEvent) : (s.withProgram p).pin0 = s.pin0 := rfl
@[simp] theorem withProgram_pin1 (s : State) (p : List PortEvent) : (s.withProgram p).pin1 = s.pin1 := rfl
@[simp] theorem withProgram_plen (s : State) (p : List PortEvent) : (s.withProgram p).plen = s.plen := rfl
@[simp] theorem withProgram_res0 (s : State) (p : List PortEvent) : (s.withProgram p).res0 = s.res0 := rfl
@[simp] theorem withProgram_res1 (s : State) (p : List PortEvent) : (s.withProgram p).res1 = s.res1 := rfl
@[simp] theorem withProgram_res2 (s : State) (p : List PortEvent) : (s.withProgram p).res2 = s.res2 := rfl
@[simp] theorem withProgram_pout0 (s : State) (p : List PortEvent) : (s.withProgram p).pout0 = s.pout0 := rfl
@[simp] theorem withProgram_pout1 (s : State) (p : List PortEvent) : (s.withProgram p).pout1 = s.pout1 := rfl
@[simp] theorem withProgram_arb (s : State) (p : List PortEvent) : (s.withProgram p).arb = s.arb := rfl
@[simp] theorem withProgram_dlc (s : State) (p : List PortEvent) : (s.withProgram p).dlc = s.dlc := rfl
@[simp] theorem withProgram_status (s : State) (p : List PortEvent) : (s.withProgram p).status = s.status := rfl
@[simp] theorem withProgram_port (s : State) (p : List PortEvent) : (s.withProgram p).port = p := rfl
@[simp] theorem withProgram_response (s : State) (p : List PortEvent) : (s.withProgram p).response = s.response := rfl
@[simp] theorem withProgram_freeCount (s : State) (p : List PortEvent) : (s.withProgram p).freeCount = s.freeCount := rfl

end Sys2Proof.Machine
end

