-- ==== Sys2Proof/Laws/Ops.lean ====
section
/-! SUPPORT. What each shared operation can do, said once. -/

namespace Sys2Proof.Machine

/-! ### Bytes, halves and words -/

theorem getLsbD_concat2 (b1 b0 : Byte) (j : Nat) :
    (concat2 b1 b0).getLsbD j = if j < 8 then b0.getLsbD j else b1.getLsbD (j - 8) := by
  simp only [concat2, BitVec.getLsbD_append]

theorem getLsbD_concat4 (b3 b2 b1 b0 : Byte) (j : Nat) :
    (concat4 b3 b2 b1 b0).getLsbD j =
      if j < 8 then b0.getLsbD j else if j < 16 then b1.getLsbD (j - 8)
      else if j < 24 then b2.getLsbD (j - 16) else b3.getLsbD (j - 24) := by
  have h : (concat4 b3 b2 b1 b0).getLsbD j = (b3 ++ b2 ++ b1 ++ b0).getLsbD j := rfl
  rw [h]
  simp only [BitVec.getLsbD_append]
  repeat' split
  all_goals first | omega | rfl

/-- The bytes of a word, put together, are the word (R39). -/
theorem concat4_byteOf (v : Word) : concat4 (byteOf v 3) (byteOf v 2) (byteOf v 1) (byteOf v 0) = v := by
  apply BitVec.eq_of_getLsbD_eq
  intro j hj
  simp only [getLsbD_concat4, byteOf, BitVec.getLsbD_extractLsb']
  repeat' split
  all_goals
    rw [decide_eq_true (by omega), Bool.true_and]
    congr 1
    omega

/-- The two bytes of a half, put together, are the half (R13). -/
theorem concat2_bytes (h : Half) : concat2 (highByte h) (lowByte h) = h := by
  apply BitVec.eq_of_getLsbD_eq
  intro j hj
  simp only [getLsbD_concat2, lowByte, highByte, BitVec.getLsbD_extractLsb']
  repeat' split
  all_goals
    rw [decide_eq_true (by omega), Bool.true_and]
    congr 1
    omega

/-- Two neighbouring bytes of a word are its 16-bit field (R39). -/
theorem concat2_byteOf (v : Word) (i : Nat) :
    concat2 (byteOf v (i + 1)) (byteOf v i) = v.extractLsb' (8 * i) 16 := by
  apply BitVec.eq_of_getLsbD_eq
  intro j hj
  simp only [getLsbD_concat2, byteOf, BitVec.getLsbD_extractLsb']
  split
  all_goals
    rw [decide_eq_true (by omega), decide_eq_true (by omega)]
    try (congr 2; omega)

/-- The bytes of two halves make the word with the second half above the first: `POUT0 = u16(vel) ‖
u16(pos)` (R83). -/
theorem concat4_halves (hi lo : Half) :
    concat4 (highByte hi) (lowByte hi) (highByte lo) (lowByte lo) = hi ++ lo := by
  apply BitVec.eq_of_getLsbD_eq
  intro j hj
  simp only [getLsbD_concat4, lowByte, highByte, BitVec.getLsbD_extractLsb', BitVec.getLsbD_append]
  repeat' split
  all_goals first
    | omega
    | (rw [decide_eq_true (by omega), Bool.true_and]; congr 1; omega)

/-! ### The register map -/

theorem regAt_offset (r : Reg) : regAt r.offset = some r := by cases r <;> rfl

/-- An offset names a register exactly when it is that register's offset. -/
theorem regAt_eq_some {o : BitVec 8} {r : Reg} : regAt o = some r ↔ o = r.offset := by
  cases r <;> (revert o; decide +kernel)

/-- An offset above STATUS names no register. -/
theorem regAt_reserved {o : BitVec 8} (h : o = 0x1C#8 ∨ o = 0x2C#8 ∨ 0x44 ≤ o.toNat) : regAt o = none := by
  revert h; revert o; decide +kernel

theorem hostRead_offset (s : State) (r : Reg) : hostRead s r.offset = readReg s r &&& definedBits r := by
  simp [hostRead, regAt_offset]

theorem plenStored_eq (v : Word) : plenStored v = v &&& 0x0000000F#32 := by
  apply BitVec.eq_of_toNat_eq
  simp only [plenStored, BitVec.toNat_setWidth, BitVec.extractLsb'_toNat, BitVec.toNat_and]
  have : (0x0000000F#32).toNat = 2 ^ 4 - 1 := rfl
  rw [this, Nat.and_two_pow_sub_one_eq_mod]
  have := v.isLt
  simp; omega

theorem pinLength_eq (s : State) : pinLength s = s.plen.toNat % 16 := by
  simp [pinLength, BitVec.extractLsb'_toNat]

/-! ### Status words -/

theorem getLsbD_flagBit (i j : Nat) (b : Bool) (hj : j < 32) :
    (flagBit i b).getLsbD j = (b && decide (j = i)) := by
  cases b
  · simp [flagBit]
  · rw [Bool.eq_iff_iff]
    simp [flagBit, hj]
    omega

theorem getElem_flagBit (i j : Nat) (b : Bool) (hj : j < 32) :
    (flagBit i b)[j] = (b && decide (j = i)) :=
  getLsbD_flagBit i j b hj

/-- The error code of a completed command is 0 (R97). -/
theorem errOf_completedStatus (f : Flags) : errOf (completedStatus f) = 0 := by
  have h : (completedStatus f).extractLsb' 16 4 = 0#4 := by
    apply BitVec.eq_of_getLsbD_eq
    intro j hj
    interval_cases j <;>
      simp [completedStatus, doneBit, Flags.toWord, getElem_flagBit]
  have := congrArg BitVec.toNat h
  simpa [errOf, BitVec.extractLsb'_toNat, Nat.shiftRight_eq_div_pow] using this

theorem errOf_errorStatus (e : CmdError) : errOf (errorStatus e) = errorCode e := by cases e <;> rfl

theorem completedStatus_done (f : Flags) : (completedStatus f).getLsbD 31 = true := by
  simp [completedStatus, doneBit]

theorem errorStatus_done (e : CmdError) : (errorStatus e).getLsbD 31 = true := by cases e <;> rfl

/-! ### Commands -/

/-- What each command produces when it completes. -/
def resultsOf (s : State) : Instr → Results
  | .scalePos => scaleResults .pos s
  | .scaleVel => scaleResults .vel s
  | .scaleAcc => scaleResults .acc s
  | .scaleTqe => scaleResults .tqe s
  | .descalePos => descaleResults .pos s
  | .descaleVel => descaleResults .vel s
  | .descaleAcc => descaleResults .acc s
  | .descaleTqe => descaleResults .tqe s
  | .enc90f vo => streamResults stream90Id (positionField vo (floatField s.opa .pos))
      (floatField s.opb .vel) (floatField s.opc .tqe)
  | .enc90r vo => streamResults stream90Id (positionField vo (rawField s.opa))
      (rawField s.opb) (rawField s.opc)
  | .encAdf vo => streamResults streamADId (positionField vo (floatField s.opa .pos))
      (floatField s.opb .vel) (floatField s.opc .acc)
  | .encAdr vo => streamResults streamADId (positionField vo (rawField s.opa))
      (rawField s.opb) (rawField s.opc)
  | .encMode mode mid =>
    { pout := ⟨0x01#8, 0x00#8, mode, padByte, padByte, padByte, padByte, padByte⟩
      arb := arbWord false (midId mid)
      dlc := 8#4 }
  | .encRegw addr mid =>
    { pout := ⟨0x0D#8, addr, byteOf s.opa 0, byteOf s.opa 1, byteOf s.opa 2, byteOf s.opa 3, padByte, padByte⟩
      arb := arbWord false (midId mid)
      dlc := 8#4 }
  | .encPing mid =>
    { pout := ⟨0x11#8, 0x00#8, padByte, padByte, padByte, padByte, padByte, padByte⟩
      arb := arbWord true (0x8000#29 ||| midId mid)
      dlc := 8#4 }
  | .decStream => decStreamResults s
  | .decDisc => decDiscResults s

/-- Every command, once over: a decoder with LEN > 8 raises BAD_LEN, and otherwise the command completes
with its results. -/
theorem exec_eq (i : Instr) (s : State) :
    exec i s = if isDecoder i = true ∧ 8 < s.plen.toNat % 16 then .next (raise .badLen s)
      else .next (complete (resultsOf s i) s) := by
  cases i
  case decStream | decDisc =>
    simp [exec, execDecStream, execDecDisc, withFrameLength, pinLength_eq, isDecoder, resultsOf]
  all_goals rfl

/-- A command's results read the operand and payload input registers only (R16). -/
theorem resultsOf_congr {s t : State} (h : sameOperands s t) (i : Instr) : resultsOf s i = resultsOf t i := by
  cases s
  cases t
  simp only [sameOperands] at h
  obtain ⟨rfl, rfl, rfl, rfl, rfl, rfl⟩ := h
  cases i <;> rfl

/-- A command completes, or, being a decoder with LEN > 8, raises BAD_LEN. It does nothing else. -/
theorem exec_cases (i : Instr) (s : State) :
    (∃ r, exec i s = .next (complete r s)) ∨
      (isDecoder i = true ∧ 8 < s.plen.toNat % 16 ∧ exec i s = .next (raise .badLen s)) := by
  rw [exec_eq]
  split
  next h => exact .inr ⟨h.1, h.2, rfl⟩
  next => exact .inl ⟨_, rfl⟩

/-- `Execute(c)` completes a command or raises one error; either way there is a next state. -/
theorem executeCommand_cases (c : Word) (s : State) :
    (∃ r, executeCommand c s = .next (complete r s)) ∨
      (∃ e, executeCommand c s = .next (raise e s)) := by
  unfold executeCommand
  split
  · rcases exec_cases _ s with ⟨r, h⟩ | ⟨-, -, h⟩
    · exact .inl ⟨r, h⟩
    · exact .inr ⟨_, h⟩
  · exact .inr ⟨_, rfl⟩

/-- What a host write can do: execute a command, store one operand or input register, or nothing. -/
theorem hostWrite_cases {o : BitVec 8} {v : Word} {s t : State} (h : hostWrite o v s = .next t) :
    (o = 0x00#8 ∧ executeCommand v { s with cmd := v } = .next t) ∨
    t = { s with opa := v } ∨ t = { s with opb := v } ∨ t = { s with opc := v } ∨
    t = { s with pin0 := v } ∨ t = { s with pin1 := v } ∨ t = { s with plen := plenStored v } ∨ t = s := by
  unfold hostWrite at h
  split at h
  next hr => exact .inl ⟨regAt_eq_some.mp hr, h⟩
  all_goals
    cases h
    simp

end Sys2Proof.Machine
end

