-- ==== Sys2Proof/Laws/Number.lean ====
section
/-! SUPPORT. The integer arithmetic of the scaler, said in exact rationals: what each number operation
gives, so that no proof unfolds it. -/

namespace Sys2Proof.Machine

/-! ### binary32 values -/

theorem f32Exp_eq (b : Word) : f32Exp b = expField b := by
  simp [f32Exp, expField, BitVec.extractLsb'_toNat, Nat.shiftRight_eq_div_pow]

theorem f32Frac_eq (b : Word) : f32Frac b = fracField b := by
  simp [f32Frac, fracField, BitVec.extractLsb'_toNat]

theorem f32Sign_eq (b : Word) : f32Sign b = decide (2 ^ 31 ≤ b.toNat) := by
  have : b.getLsbD 31 = b.msb := by simp [BitVec.msb, BitVec.getMsbD]
  rw [f32Sign, this, BitVec.msb_eq_decide]

/-- The magnitude in units of 2^(−149) is the rational magnitude of R10. -/
theorem f32Mag_rat (e m : Nat) :
    (f32Mag e m : ℚ) * (2 : ℚ) ^ (-149 : ℤ) =
      if e = 0 then (m : ℚ) * (2 : ℚ) ^ (-149 : ℤ) else (2 ^ 23 + m : ℚ) * (2 : ℚ) ^ ((e : ℤ) - 150) := by
  unfold f32Mag
  split_ifs with h
  · rfl
  · push_cast
    rw [mul_assoc]
    congr 1
    have : (e : ℤ) - 150 = ((e - 1 : ℕ) : ℤ) + (-149) := by omega
    rw [this, zpow_add₀ (by norm_num), zpow_natCast]

/-- A pattern's rational value is its integer value in units of 2^(−149). -/
theorem ratOf_eq (b : Word) :
    ratOf b = (signed (f32Sign b) (f32Mag (f32Exp b) (f32Frac b)) : ℚ) * (2 : ℚ) ^ (-149 : ℤ) := by
  have h := f32Mag_rat (f32Exp b) (f32Frac b)
  rw [f32Exp_eq, f32Frac_eq] at *
  unfold ratOf
  rw [← h, f32Sign_eq]
  by_cases hs : 2 ^ 31 ≤ b.toNat <;> simp [signed]

theorem f32val_of_finite {b : Word} (h : isFinite b) :
    f32val b = .finite (signed (f32Sign b) (f32Mag (f32Exp b) (f32Frac b))) := by
  unfold f32val
  rw [if_neg (by rw [f32Exp_eq]; exact h)]

theorem f32val_of_isNaN {b : Word} (h : isNaN b) : f32val b = .nan := by
  unfold f32val
  rw [f32Exp_eq, if_pos h.1, f32Frac_eq, if_neg h.2]

theorem f32val_of_infinite {b : Word} (he : expField b = 255) (hm : fracField b = 0) :
    f32val b = .inf (decide (2 ^ 31 ≤ b.toNat)) := by
  unfold f32val
  rw [f32Exp_eq, if_pos he, f32Frac_eq, if_pos hm, f32Sign_eq]

/-! ### Truncation -/

/-- Integer division toward zero is `trunc` of the exact quotient (R11). -/
theorem tdiv_eq_truncRat (n : ℤ) (d : ℕ) (hd : 0 < d) : n.tdiv d = truncRat ((n : ℚ) / d) := by
  have hd' : (0 : ℚ) < d := by exact_mod_cast hd
  unfold truncRat
  split_ifs with h
  · have hn : 0 ≤ n := by
      by_contra hn
      have : (n : ℚ) / d < 0 := div_neg_of_neg_of_pos (by exact_mod_cast (by omega : n < 0)) hd'
      linarith
    rw [Int.tdiv_eq_ediv_of_nonneg hn]
    exact (Rat.floor_intCast_div_natCast n d).symm
  · have hn : n < 0 := by
      by_contra hn
      exact h (div_nonneg (by exact_mod_cast (by omega : 0 ≤ n)) hd'.le)
    have h2 := Rat.floor_intCast_div_natCast (-n) d
    have h3 : ⌈(n : ℚ) / d⌉ = -⌊((-n : ℤ) : ℚ) / d⌋ := by rw [← Int.ceil_neg]; push_cast; ring_nf
    rw [h3, h2, ← Int.tdiv_eq_ediv_of_nonneg (by omega), Int.neg_tdiv]
    simp

/-- The scaled integer is `trunc(v × F)` of the exact product (R63, R64). -/
theorem scaledInt_eq_truncRat (n : ℤ) (qty : Qty) :
    scaledInt n qty = truncRat ((n : ℚ) * (2 : ℚ) ^ (-149 : ℤ) * scaleFactor qty) := by
  simp only [scaledInt, roundQuotient]
  rw [tdiv_eq_truncRat _ _ (by cases qty <;> simp [Qty.factorDen])]
  congr 1
  rw [zpow_neg]
  cases qty <;> simp only [Qty.factorNum, Qty.factorDen, scaleFactor] <;> push_cast <;> norm_num <;> ring_nf

/-- `trunc(r)` is above a nonnegative `k` exactly when `r` reaches `k + 1`. -/
theorem lt_truncRat_iff (r : ℚ) (k : ℤ) (hk : 0 ≤ k) : k < truncRat r ↔ (k + 1 : ℚ) ≤ r := by
  have h0 : (0 : ℚ) ≤ k := by exact_mod_cast hk
  unfold truncRat
  split_ifs with h
  · rw [Int.lt_iff_add_one_le, Int.le_floor]
    push_cast
    rfl
  · constructor
    · intro h1
      have : ⌈r⌉ ≤ 0 := by rw [Int.ceil_le]; push_cast; linarith
      omega
    · intro h1
      linarith

/-- `trunc(r)` is below a nonpositive `k` exactly when `r` is at most `k − 1`. -/
theorem truncRat_lt_iff (r : ℚ) (k : ℤ) (hk : k ≤ 0) : truncRat r < k ↔ r ≤ (k - 1 : ℚ) := by
  have h0 : (k : ℚ) ≤ 0 := by exact_mod_cast hk
  unfold truncRat
  split_ifs with h
  · constructor
    · intro h1
      have : 0 ≤ ⌊r⌋ := by rw [Int.le_floor]; push_cast; linarith
      omega
    · intro h1
      linarith
  · rw [← Int.le_sub_one_iff, Int.ceil_le]
    push_cast
    rfl

/-! ### int16 fields -/

/-- sext_32(u16(n)) of an int16 n is n as a 32-bit word (R9). -/
theorem sext32_u16 {q : ℤ} (h1 : -32768 ≤ q) (h2 : q ≤ 32767) : sext32 (u16 q) = BitVec.ofInt 32 q := by
  apply BitVec.eq_of_toInt_eq
  rw [sext32, u16, BitVec.toInt_signExtend_of_le (by decide), BitVec.toInt_ofInt, BitVec.toInt_ofInt]
  simp [Int.bmod]
  omega

/-- The two flags of `Sat16` are never both set (R26). -/
theorem sat16_flags (b : Word) (qty : Qty) : ¬((sat16 b qty).sat = true ∧ (sat16 b qty).nan = true) := by
  unfold sat16 clampScaled
  split <;> (try split_ifs) <;> simp

/-! ### Rounding to nearest even -/

/-- `roundHalfEven` is within half of the exact quotient, and even when exactly half away (R12). -/
theorem roundHalfEven_spec (num den : ℕ) (hd : 0 < den) :
    2 * |(roundHalfEven num den : ℤ) * den - num| ≤ den ∧
      (2 * |(roundHalfEven num den : ℤ) * den - num| = den → roundHalfEven num den % 2 = 0) := by
  have hdiv : (den : ℤ) * (num / den : ℕ) + (num % den : ℕ) = num := by exact_mod_cast Nat.div_add_mod num den
  have hlt : num % den < den := Nat.mod_lt _ hd
  unfold roundHalfEven
  simp only
  generalize num / den = sig at *
  generalize num % den = rest at *
  split_ifs with h
  · have e : ((sig + 1 : ℕ) : ℤ) * den - num = den - rest := by push_cast; linarith
    rw [e, abs_of_nonneg (by omega)]
    omega
  · have e : (sig : ℤ) * den - num = -rest := by linarith
    rw [e, abs_neg, abs_of_nonneg (by omega)]
    omega

/-- Comparing with the powers of two on their own sides is comparing with `2^k`. -/
theorem mul_two_pow_lt_iff (x y : ℕ) (k : ℤ) :
    x * 2 ^ (-k).toNat < y * 2 ^ k.toNat ↔ (x : ℚ) < y * (2 : ℚ) ^ k := by
  rcases le_total 0 k with hk | hk
  · obtain ⟨n, rfl⟩ := Int.eq_ofNat_of_zero_le hk
    have h1 : (-(n : ℤ)).toNat = 0 := by omega
    simp only [h1, Int.toNat_natCast, pow_zero, mul_one, zpow_natCast]
    exact_mod_cast Iff.rfl
  · obtain ⟨n, hn⟩ := Int.eq_ofNat_of_zero_le (by omega : 0 ≤ -k)
    obtain rfl : k = -(n : ℤ) := by omega
    have h1 : (-(n : ℤ)).toNat = 0 := by omega
    simp only [h1, neg_neg, Int.toNat_natCast, pow_zero, mul_one, zpow_neg, zpow_natCast]
    rw [← div_eq_mul_inv, lt_div_iff₀ (by positivity)]
    exact_mod_cast Iff.rfl

/-- The unit exponent puts the significand in [2^23, 2^24) (R12). -/
theorem unitExp_spec (a d : ℕ) (ha : 0 < a) (hd : 0 < d) :
    (2 : ℚ) ^ 23 * (d * 2 ^ unitExp a d) ≤ a ∧ (a : ℚ) < 2 ^ 24 * (d * 2 ^ unitExp a d) := by
  have la : ((2 : ℚ) ^ (a.log2 : ℤ)) ≤ a := by
    rw [zpow_natCast]; exact_mod_cast Nat.log2_self_le (by omega)
  have ua : (a : ℚ) < (2 : ℚ) ^ (a.log2 + 1 : ℤ) := by
    rw [← Nat.cast_succ, zpow_natCast]; exact_mod_cast Nat.lt_log2_self
  have ld : ((2 : ℚ) ^ (d.log2 : ℤ)) ≤ d := by
    rw [zpow_natCast]; exact_mod_cast Nat.log2_self_le (by omega)
  have ud : (d : ℚ) < (2 : ℚ) ^ (d.log2 + 1 : ℤ) := by
    rw [← Nat.cast_succ, zpow_natCast]; exact_mod_cast Nat.lt_log2_self
  unfold unitExp
  simp only
  set k : ℤ := (a.log2 : ℤ) - (d.log2 : ℤ) - 23 with hk
  have hp : (0 : ℚ) < 2 ^ k := by positivity
  have e1 : (2 : ℚ) ^ (a.log2 : ℤ) = 2 ^ (d.log2 : ℤ) * 2 ^ k * 2 ^ 23 := by
    have : (a.log2 : ℤ) = d.log2 + k + 23 := by omega
    rw [this, zpow_add₀ (by norm_num), zpow_add₀ (by norm_num)]
    norm_cast
  have hs := mul_two_pow_lt_iff a (2 ^ 23 * d) k
  rw [mul_assoc (2 ^ 23) d] at hs
  push_cast at hs
  split_ifs with h
  · have h' := hs.mp h
    have e2 : (2 : ℚ) ^ (k - 1) = 2 ^ k / 2 := by rw [zpow_sub_one₀ (by norm_num)]; rfl
    rw [e2]
    have e3 : (2 : ℚ) ^ (d.log2 + 1 : ℤ) = 2 ^ (d.log2 : ℤ) * 2 := by
      rw [zpow_add_one₀ (by norm_num)]
    rw [e3] at ud
    constructor
    · nlinarith
    · nlinarith
  · have h' := not_lt.mp (fun x => h (hs.mpr x))
    have e4 : (2 : ℚ) ^ (a.log2 + 1 : ℤ) = 2 ^ (a.log2 : ℤ) * 2 := by
      rw [zpow_add_one₀ (by norm_num)]
    rw [e4, e1] at ua
    constructor
    · linarith
    · nlinarith

end Sys2Proof.Machine
end

