-- ==== Sys2Proof/Laws/PerInstr.lean ====
section
/-! SUPPORT. Facts stated for each command on its own: its encoding fits its row of the opcode table. -/

namespace Sys2Proof.Laws

/-- The fixed bits of a command's row (spec/opcode_table.json, "mask"). -/
def rowMask : Instr → Word
  | .scalePos | .scaleVel | .scaleAcc | .scaleTqe => 0xFFFFFFFF#32
  | .descalePos | .descaleVel | .descaleAcc | .descaleTqe => 0xFFFFFFFF#32
  | .enc90f _ | .enc90r _ | .encAdf _ | .encAdr _ => 0xFFFFFFBF#32
  | .encMode _ _ | .encRegw _ _ => 0x0000FFFF#32
  | .encPing _ => 0x00FFFFFF#32
  | .decStream | .decDisc => 0xFFFFFFFF#32

/-- The value of those bits (spec/opcode_table.json, "match"). -/
def rowMatch : Instr → Word
  | .scalePos => 0x00000001#32
  | .scaleVel => 0x00000011#32
  | .scaleAcc => 0x00000021#32
  | .scaleTqe => 0x00000031#32
  | .descalePos => 0x00000002#32
  | .descaleVel => 0x00000012#32
  | .descaleAcc => 0x00000022#32
  | .descaleTqe => 0x00000032#32
  | .enc90f _ => 0x00000003#32
  | .enc90r _ => 0x00000083#32
  | .encAdf _ => 0x00000103#32
  | .encAdr _ => 0x00000183#32
  | .encMode _ _ => 0x00000004#32
  | .encRegw _ _ => 0x00000005#32
  | .encPing _ => 0x00000006#32
  | .decStream => 0x00000007#32
  | .decDisc => 0x00000008#32

/-- The command is well formed and its word has its row's fixed bits. -/
def EncodingFits.Statement (i : Instr) : Prop :=
  i.wellFormed = true ∧ encode i &&& rowMask i = rowMatch i

/-- Above 16 fixed low bits, two byte fields do not show under the mask of those bits. -/
theorem append_and_low16 (a b : Byte) (x : BitVec 16) :
    (a ++ b ++ x : Word) &&& 0x0000FFFF#32 = x.setWidth 32 := by
  apply BitVec.eq_of_toNat_eq
  have h : (0x0000FFFF#32).toNat = 2 ^ 16 - 1 := rfl
  rw [BitVec.toNat_and, h, Nat.and_two_pow_sub_one_eq_mod]
  have hx := x.isLt
  have e : (a ++ b ++ x : Word).toNat = (a ++ b).toNat <<< 16 ||| x.toNat := BitVec.toNat_append _ _
  rw [e, Nat.or_mod_two_pow, Nat.shiftLeft_eq, Nat.mul_mod_left, Nat.mod_eq_of_lt hx]
  simp
  omega

/-- Above 24 fixed low bits, a byte field does not show under the mask of those bits. -/
theorem append_and_low24 (a : Byte) (x : BitVec 24) :
    (a ++ x : Word) &&& 0x00FFFFFF#32 = x.setWidth 32 := by
  apply BitVec.eq_of_toNat_eq
  have h : (0x00FFFFFF#32).toNat = 2 ^ 24 - 1 := rfl
  rw [BitVec.toNat_and, h, Nat.and_two_pow_sub_one_eq_mod]
  have hx := x.isLt
  have e : (a ++ x : Word).toNat = a.toNat <<< 24 ||| x.toNat := BitVec.toNat_append _ _
  rw [e, Nat.or_mod_two_pow, Nat.shiftLeft_eq, Nat.mul_mod_left, Nat.mod_eq_of_lt hx]
  simp
  omega

theorem EncodingFits.scalePos : EncodingFits.Statement .scalePos := ⟨rfl, rfl⟩
theorem EncodingFits.scaleVel : EncodingFits.Statement .scaleVel := ⟨rfl, rfl⟩
theorem EncodingFits.scaleAcc : EncodingFits.Statement .scaleAcc := ⟨rfl, rfl⟩
theorem EncodingFits.scaleTqe : EncodingFits.Statement .scaleTqe := ⟨rfl, rfl⟩
theorem EncodingFits.descalePos : EncodingFits.Statement .descalePos := ⟨rfl, rfl⟩
theorem EncodingFits.descaleVel : EncodingFits.Statement .descaleVel := ⟨rfl, rfl⟩
theorem EncodingFits.descaleAcc : EncodingFits.Statement .descaleAcc := ⟨rfl, rfl⟩
theorem EncodingFits.descaleTqe : EncodingFits.Statement .descaleTqe := ⟨rfl, rfl⟩

theorem EncodingFits.enc90f (vo : Bool) : EncodingFits.Statement (.enc90f vo) := by
  cases vo <;> exact ⟨rfl, rfl⟩

theorem EncodingFits.enc90r (vo : Bool) : EncodingFits.Statement (.enc90r vo) := by
  cases vo <;> exact ⟨rfl, rfl⟩

theorem EncodingFits.encAdf (vo : Bool) : EncodingFits.Statement (.encAdf vo) := by
  cases vo <;> exact ⟨rfl, rfl⟩

theorem EncodingFits.encAdr (vo : Bool) : EncodingFits.Statement (.encAdr vo) := by
  cases vo <;> exact ⟨rfl, rfl⟩

theorem EncodingFits.encMode (mode mid : Byte) : EncodingFits.Statement (.encMode mode mid) :=
  ⟨rfl, append_and_low16 mid mode 0x0004#16⟩

theorem EncodingFits.encRegw (addr mid : Byte) : EncodingFits.Statement (.encRegw addr mid) :=
  ⟨rfl, append_and_low16 mid addr 0x0005#16⟩

theorem EncodingFits.encPing (mid : Byte) : EncodingFits.Statement (.encPing mid) :=
  ⟨rfl, append_and_low24 mid 0x000006#24⟩

theorem EncodingFits.decStream : EncodingFits.Statement .decStream := ⟨rfl, rfl⟩
theorem EncodingFits.decDisc : EncodingFits.Statement .decDisc := ⟨rfl, rfl⟩

end Sys2Proof.Laws
end

