-- ==== Sys2Proof/Laws/Step.lean ====
section
/-! SUPPORT. What a step can do, said once. -/

namespace Sys2Proof.Machine

theorem step_of_empty_port {s : State} (h : s.port = []) : step s = .next s := by
  simp [step, h, idle]

theorem step_of_port {s : State} {e : PortEvent} {rest : List PortEvent} (h : s.port = e :: rest) :
    step s = takeEvent e { s with port := rest } := by
  simp [step, h]

/-- The port takes exactly the well-formed accesses. -/
theorem accessRefusal_eq_none {a : Access} : accessRefusal a = none ↔ a.wellFormed = true := by
  unfold accessRefusal Access.wellFormed
  split_ifs <;> simp_all

/-- The port takes an aligned 32-bit access of the window. -/
theorem takeEvent_window {o : BitVec 8} (ho : o.toNat % 4 = 0) (k : AccessKind) (s : State) :
    takeEvent (.access ⟨.window o, 32, k⟩) s = completeAccess ⟨.window o, 32, k⟩ s := by
  have : accessRefusal ⟨.window o, 32, k⟩ = none := by
    simp [accessRefusal_eq_none, Access.wellFormed, Access.inWindow, Access.isWord, Access.aligned, ho]
  simp [takeEvent, this]

/-- A step that takes a write to CMD stores the word and executes it (R43, R56). -/
theorem step_command {s : State} {c : Word} {rest : List PortEvent}
    (h : s.port = .access ⟨.window 0x00#8, 32, .write c⟩ :: rest) :
    step s = executeCommand c { s with port := rest, response := .writeDone, cmd := c } := by
  rw [step_of_port h, takeEvent_window rfl]
  rfl

/-- What an event the port takes can do. -/
theorem takeEvent_cases {e : PortEvent} {s t : State} (h : takeEvent e s = .next t) :
    (∃ a, e = .access a ∧ a.kind = .read ∧
      t = { s with response := .readData (hostRead s (accessOffset a)) }) ∨
    (∃ a v, e = .access a ∧ a.wellFormed = true ∧ a.kind = .write v ∧
      hostWrite (accessOffset a) v { s with response := .writeDone } = .next t) ∨
    (e = .reset ∧ t = resetRegisters s) ∨
    (∃ a, e = .resetDuring a ∧ t = resetDuringAccess a s) := by
  cases e with
  | access a =>
    simp only [takeEvent] at h
    split at h
    · cases h
    next hn =>
      simp only [completeAccess] at h
      split at h
      next hk => exact .inl ⟨a, rfl, hk, by simpa using h.symm⟩
      next v hk => exact .inr (.inl ⟨a, v, rfl, accessRefusal_eq_none.mp hn, hk, h⟩)
  | reset => exact .inr (.inr (.inl ⟨rfl, by simpa [takeEvent] using h.symm⟩))
  | resetDuring a =>
    simp only [takeEvent] at h
    split at h
    · cases h
    · exact .inr (.inr (.inr ⟨a, rfl, by simpa using h.symm⟩))

/-- What a step can do: nothing (an empty port), or what the first event at the port does. -/
theorem step_cases {s t : State} (h : step s = .next t) :
    (s.port = [] ∧ t = s) ∨
    ∃ e rest, s.port = e :: rest ∧ takeEvent e { s with port := rest } = .next t := by
  cases hp : s.port with
  | nil => exact .inl ⟨rfl, by simpa [step_of_empty_port hp] using h.symm⟩
  | cons e rest => exact .inr ⟨e, rest, rfl, step_of_port hp ▸ h⟩

end Sys2Proof.Machine
end

