-- ==== Sys2Proof/Tests/Slice0.lean ====
section
/-! SUPPORT. The model's own tests: expected values from the rules' examples and from 95_test_vectors.md
(the row's id stands in the name's comment), and a witness for every statement that has hypotheses. -/

namespace Sys2Proof.Tests

open Sys2Proof Sys2Proof.Machine

/-! ### Helpers -/

/-- The reset state with the three operand registers set. -/
def withOperands (a b c : Word) : State := { State.reset with opa := a, opb := b, opc := c }

/-- The reset state with the payload input registers set. -/
def withPayload (p0 p1 len : Word) : State := { State.reset with pin0 := p0, pin1 := p1, plen := len }

/-- A list of register values after one command or step, if there is a next state. -/
def see (o : Result) (f : State → List Word) : Option (List Word) :=
  match o with
  | .next t => some (f t)
  | .fault _ => none
  | .refused _ => none

/-- The value and flags of a one-result command. -/
def res0Status (t : State) : List Word := [t.res0, t.status]

/-- The frame an encoder emits, with STATUS. -/
def frame (t : State) : List Word := [t.pout0, t.pout1, t.arb, t.dlc, t.status]

/-- The three results and STATUS. -/
def fields (t : State) : List Word := [t.res0, t.res1, t.res2, t.status]

/-- A state with one write to CMD at its port. -/
def commandAt (c : Word) : State := State.reset.withProgram [wr .cmd c]

/-! ### Well-formedness -/

theorem test_wellFormed_accepts_word_access : Access.wellFormed ⟨.window 0x40#8, 32, .read⟩ = true := by decide
theorem test_wellFormed_refuses_byte : Access.wellFormed ⟨.window 0x40#8, 8, .read⟩ = false := by decide
theorem test_wellFormed_refuses_halfword : Access.wellFormed ⟨.window 0x40#8, 16, .write 0#32⟩ = false := by decide
theorem test_wellFormed_refuses_misaligned : Access.wellFormed ⟨.window 0x41#8, 32, .read⟩ = false := by decide
theorem test_wellFormed_refuses_outside : Access.wellFormed ⟨.outside 0x40, 32, .read⟩ = false := by decide
theorem test_wellFormed_every_instr (i : Instr) : i.wellFormed = true := by cases i <;> rfl

/-! ### Decoding: each word written out from R52 and the encoding its rule gives -/

theorem test_decode_scalePos : decode 0b00000000_00000000_0000000_0_0_0_00_0001#32 = .ok .scalePos := by decide
theorem test_decode_scaleVel : decode 0b00000000_00000000_0000000_0_0_0_01_0001#32 = .ok .scaleVel := by decide
theorem test_decode_scaleAcc : decode 0b00000000_00000000_0000000_0_0_0_10_0001#32 = .ok .scaleAcc := by decide
theorem test_decode_scaleTqe : decode 0b00000000_00000000_0000000_0_0_0_11_0001#32 = .ok .scaleTqe := by decide
theorem test_decode_descalePos : decode 0b00000000_00000000_0000000_0_0_0_00_0010#32 = .ok .descalePos := by decide
theorem test_decode_descaleVel : decode 0b00000000_00000000_0000000_0_0_0_01_0010#32 = .ok .descaleVel := by decide
theorem test_decode_descaleAcc : decode 0b00000000_00000000_0000000_0_0_0_10_0010#32 = .ok .descaleAcc := by decide
theorem test_decode_descaleTqe : decode 0b00000000_00000000_0000000_0_0_0_11_0010#32 = .ok .descaleTqe := by decide
theorem test_decode_enc90f : decode 0b00000000_00000000_0000000_0_0_0_00_0011#32 = .ok (.enc90f false) := by decide
theorem test_decode_enc90f_vo : decode 0b00000000_00000000_0000000_0_0_1_00_0011#32 = .ok (.enc90f true) := by decide
theorem test_decode_enc90r : decode 0b00000000_00000000_0000000_0_1_0_00_0011#32 = .ok (.enc90r false) := by decide
theorem test_decode_encAdf_vo : decode 0b00000000_00000000_0000000_1_0_1_00_0011#32 = .ok (.encAdf true) := by decide
theorem test_decode_encAdr : decode 0b00000000_00000000_0000000_1_1_0_00_0011#32 = .ok (.encAdr false) := by decide
theorem test_decode_encMode : decode 0b00000001_00001010_0000000_0_0_0_00_0100#32 = .ok (.encMode 0x0A#8 0x01#8) := by decide
theorem test_decode_encRegw : decode 0b00000001_00100000_0000000_0_0_0_00_0101#32 = .ok (.encRegw 0x20#8 0x01#8) := by decide
theorem test_decode_encPing : decode 0b00000101_00000000_0000000_0_0_0_00_0110#32 = .ok (.encPing 0x05#8) := by decide
theorem test_decode_decStream : decode 0b00000000_00000000_0000000_0_0_0_00_0111#32 = .ok .decStream := by decide
theorem test_decode_decDisc : decode 0b00000000_00000000_0000000_0_0_0_00_1000#32 = .ok .decDisc := by decide

-- ER1 to ER12, ER16: the two command-word errors
theorem test_decode_illegalOp :
    [0x00000000#32, 0x00000009#32, 0xFFFFFFFF#32, 0x0000001A#32].map decode =
      List.replicate 4 (.error .illegalOp) := by decide
theorem test_decode_rsvField :
    [0x00000041#32, 0x00000082#32, 0x01000001#32, 0x00000013#32, 0x00000203#32, 0x00010003#32, 0x010A0014#32,
      0xFF00FF05#32, 0x00010006#32, 0x00000017#32].map decode = List.replicate 10 (.error .rsvField) := by decide

theorem test_decodeTableWord : decodeTableWord 32 0x000001C3 = some (.encAdr true) := by decide
-- R60's table
theorem test_encode_fields : encode (.encRegw 0x20#8 0x01#8) = 0x01200005#32 := by decide

/-! ### SCALE and DESCALE -/

-- S5, S12
theorem test_scalePos_90 : see (exec .scalePos (withOperands 0x42B40000#32 0 0)) res0Status =
    some [0x000009C4#32, 0x80000000#32] := by decide
theorem test_scalePos_saturates_above_sentinel :
    see (exec .scalePos (withOperands 0xC4937800#32 0 0)) res0Status = some [0xFFFF8001#32, 0x80000001#32] := by decide
-- S28, S29
theorem test_scaleVel_lowest_unsaturated :
    see (exec .scaleVel (withOperands 0xC103126F#32 0 0)) res0Status = some [0xFFFF8000#32, 0x80000000#32] := by decide
theorem test_scaleVel_first_saturated :
    see (exec .scaleVel (withOperands 0xC1031380#32 0 0)) res0Status = some [0xFFFF8000#32, 0x80000001#32] := by decide
-- S35, S42
theorem test_scaleAcc_truncates : see (exec .scaleAcc (withOperands 0x42031168#32 0 0)) res0Status =
    some [0x00007FFE#32, 0x80000000#32] := by decide
theorem test_scaleAcc_negative_infinity :
    see (exec .scaleAcc (withOperands 0xFF800000#32 0 0)) res0Status = some [0xFFFF8000#32, 0x80000001#32] := by decide
-- S45, S52
theorem test_scaleTqe_tenth : see (exec .scaleTqe (withOperands 0x3DCCCCCD#32 0 0)) res0Status =
    some [0x00000014#32, 0x80000000#32] := by decide
theorem test_scaleTqe_nan : see (exec .scaleTqe (withOperands 0x7FC00001#32 0 0)) res0Status =
    some [0x00000000#32, 0x80000010#32] := by decide
-- U3, U9
theorem test_descalePos_27 : see (exec .descalePos (withOperands 0x0000001B#32 0 0)) res0Status =
    some [0x3F78D4FE#32, 0x80000000#32] := by decide
theorem test_descalePos_sentinel : see (exec .descalePos (withOperands 0x00008000#32 0 0)) res0Status =
    some [0xC49374BC#32, 0x80000000#32] := by decide
-- U12, U15
theorem test_descaleVel_minus_one : see (exec .descaleVel (withOperands 0x0000FFFF#32 0 0)) res0Status =
    some [0xB983126F#32, 0x80000000#32] := by decide
theorem test_descaleVel_highest : see (exec .descaleVel (withOperands 0x00007FFF#32 0 0)) res0Status =
    some [0x41031168#32, 0x80000000#32] := by decide
-- U17, U20
theorem test_descaleAcc_one : see (exec .descaleAcc (withOperands 0x00000001#32 0 0)) res0Status =
    some [0x3A83126F#32, 0x80000000#32] := by decide
theorem test_descaleAcc_lowest : see (exec .descaleAcc (withOperands 0x00008000#32 0 0)) res0Status =
    some [0xC203126F#32, 0x80000000#32] := by decide
-- U25, U27
theorem test_descaleTqe_highest : see (exec .descaleTqe (withOperands 0x00007FFF#32 0 0)) res0Status =
    some [0x4323D5C3#32, 0x80000000#32] := by decide
theorem test_descaleTqe_ignores_upper_half :
    see (exec .descaleTqe (withOperands 0x1234FDA8#32 0 0)) res0Status = some [0xC0400000#32, 0x80000000#32] := by decide

/-! ### Encoders -/

-- E2, E5
theorem test_enc90f_saturates_and_nan :
    see (exec (.enc90f false) (withOperands 0x4E6E6B28#32 0x41040000#32 0x7FC00000#32)) frame =
      some [0x7FFF7FFF#32, 0x50500000#32, 0x00000090#32, 0x00000008#32, 0x80000043#32] := by decide
theorem test_enc90f_vo : see (exec (.enc90f true) (withOperands 0x42B40000#32 0x40000000#32 0x40400000#32)) frame =
    some [0x1F408000#32, 0x50500258#32, 0x00000090#32, 0x00000008#32, 0x80000100#32] := by decide
-- E7, E8
theorem test_enc90r_raw_sentinel : see (exec (.enc90r false) (withOperands 0x00008000#32 0x00001F40#32 0x00000258#32)) frame =
    some [0x1F408000#32, 0x50500258#32, 0x00000090#32, 0x00000008#32, 0x80000100#32] := by decide
theorem test_enc90r_vo : see (exec (.enc90r true) (withOperands 0x00001234#32 0x00000FA0#32 0x00000064#32)) fields =
    some [0xFFFF8000#32, 0x00000FA0#32, 0x00000064#32, 0x80000100#32] := by decide
-- E9, E12
theorem test_encAdf_negative : see (exec (.encAdf false) (withOperands 0xC2B40000#32 0xBFC00000#32 0xC1200000#32)) frame =
    some [0xE890F63C#32, 0x5050D8F0#32, 0x000000AD#32, 0x00000008#32, 0x80000000#32] := by decide
theorem test_encAdf_vo_flags : see (exec (.encAdf true) (withOperands 0x42340000#32 0x7FC00000#32 0xFF800000#32)) frame =
    some [0x00008000#32, 0x50508000#32, 0x000000AD#32, 0x00000008#32, 0x80000124#32] := by decide
-- E13, E14
theorem test_encAdr : see (exec (.encAdr false) (withOperands 0x00000064#32 0xFFFFE890#32 0x000001F4#32)) frame =
    some [0xE8900064#32, 0x505001F4#32, 0x000000AD#32, 0x00000008#32, 0x80000000#32] := by decide
theorem test_encAdr_vo_upper_halves : see (exec (.encAdr true) (withOperands 0x12340064#32 0xABCD1770#32 0x00012710#32)) fields =
    some [0xFFFF8000#32, 0x00001770#32, 0x00002710#32, 0x80000100#32] := by decide
-- E15, E18
theorem test_encMode_enable : see (exec (enablePos 0x01#8) State.reset) frame =
    some [0x500A0001#32, 0x50505050#32, 0x00000001#32, 0x00000008#32, 0x80000000#32] := by decide
theorem test_encMode_largest : see (exec (.encMode 0xFF#8 0xFF#8) State.reset) frame =
    some [0x50FF0001#32, 0x50505050#32, 0x000000FF#32, 0x00000008#32, 0x80000000#32] := by decide
-- E19, E21
theorem test_encRegw_one : see (exec (.encRegw 0x20#8 0x01#8) (withOperands 0x3F800000#32 0 0)) frame =
    some [0x0000200D#32, 0x50503F80#32, 0x00000001#32, 0x00000008#32, 0x80000000#32] := by decide
theorem test_encRegw_nan_payload : see (exec (.encRegw 0xFF#8 0xFF#8) (withOperands 0x7FC00001#32 0 0)) frame =
    some [0x0001FF0D#32, 0x50507FC0#32, 0x000000FF#32, 0x00000008#32, 0x80000000#32] := by decide
-- E23, E25
theorem test_encPing_5 : see (exec (.encPing 0x05#8) State.reset) frame =
    some [0x50500011#32, 0x50505050#32, 0x80008005#32, 0x00000008#32, 0x80000000#32] := by decide
theorem test_encPing_255 : see (exec (.encPing 0xFF#8) State.reset) frame =
    some [0x50500011#32, 0x50505050#32, 0x800080FF#32, 0x00000008#32, 0x80000000#32] := by decide

/-! ### Decoders -/

-- X2, ER13
theorem test_decStream_sentinel : see (exec .decStream (withPayload 0x17708000#32 0x50502710#32 8#32)) fields =
    some [0xFFFF8000#32, 0x00001770#32, 0x00002710#32, 0x80000700#32] := by decide
theorem test_decStream_badLen : see (exec .decStream (withPayload 0 0 9#32)) res0Status = some [0#32, 0x80030000#32] := by decide
-- X8, X11
theorem test_decDisc_version_only : see (exec .decDisc (withPayload 0x4D544800#32 0x33322E31#32 8#32)) fields =
    some [0x00000000#32, 0x33322E31#32, 0x00000000#32, 0x80002000#32] := by decide
theorem test_decDisc_name_only : see (exec .decDisc (withPayload 0x4D544851#32 0x33322E31#32 7#32)) fields =
    some [0x004D5448#32, 0x00000000#32, 0x00000000#32, 0x80001000#32] := by decide

/-! ### The step and the port -/

theorem test_step_runs_fetch_word :
    see (step (State.reset.withFetchWord 32 0x05000006)) (fun t => [t.cmd, t.arb, t.status]) =
      some [0x05000006#32, 0x80008005#32, 0x80000000#32] := by decide
-- ER15: RSV_FIELD before BAD_LEN
theorem test_step_error_priority :
    see (step { commandAt 0x00000017#32 with plen := 12#32 }) (fun t => [t.cmd, t.status]) =
      some [0x00000017#32, 0x80020000#32] := by decide
-- R58: writing the reset value to CMD
theorem test_step_zero_is_illegal :
    see (step (commandAt 0#32)) (fun t => [t.cmd, t.status]) = some [0#32, 0x80010000#32] := by decide
-- RA2
theorem test_write_plen_keeps_four_bits :
    see (step (State.reset.withProgram [wr .plen 0xFFFFFFF8#32])) (fun t => [t.plen]) = some [8#32] := by decide
-- RA4, RA5
theorem test_write_read_only_ignored :
    see (step (State.reset.withProgram [wr .status 0xFFFFFFFF#32])) (fun t => [t.status]) = some [0#32] := by decide
-- RA6, RA7
theorem test_read_reserved_offset :
    (match step (State.reset.withProgram [.access ⟨.window 0xFC#8, 32, .read⟩]) with
      | .next t => t.response
      | _ => .none) = .readData 0#32 := by decide
-- RA8
theorem test_read_operand :
    (match step { (State.reset.withProgram [rd .opa]) with opa := 0xDEADBEEF#32 } with
      | .next t => t.response
      | _ => .none) = .readData 0xDEADBEEF#32 := by decide
theorem test_reset_clears : see (step { withOperands 1 2 3 with port := [.reset] }) (fun t => [t.opa, t.opb, t.opc]) =
    some [0#32, 0#32, 0#32] := by decide
-- W10's other direction, R80: DESCALE.POS of 1 scales back to 0
theorem test_scale_after_descale_of_one : (sat16 (descale 1#16 .pos) .pos).q = 0 := by decide
-- R35: the first address of the window and the first above it
theorem test_targetOf_ends : targetOf Config.pBase = .window 0x00#8 ∧ targetOf (Config.pBase + 0x100) = .outside (Config.pBase + 0x100) := by
  constructor
  · simp [targetOf]
  · simp [targetOf]

/-! ### Witnesses: states and operands that meet the hypotheses of each statement -/

theorem witness_DecodeOfEncodeIsIdentity : ∃ i : Instr, i.wellFormed = true := ⟨.encMode 0xFF#8 0x00#8, rfl⟩

theorem witness_EncodeOfDecodeIsIdentity : ∃ c i, decode c = .ok i := ⟨0xFFFF0005#32, .encRegw 0xFF#8 0xFF#8, by decide⟩

theorem witness_StepRunsDecodedCommand : ∃ (s : State) (c : Word) (rest : List PortEvent) (i : Instr),
    s.port = .access ⟨.window 0x00#8, 32, .write c⟩ :: rest ∧ decode c = .ok i ∧ i.wellFormed = true :=
  ⟨State.reset.withProgram [wr .cmd 0x00000143#32], _, _, .encAdf true, rfl, by decide, rfl⟩

theorem witness_IllegalOpWritesOnlyStatus : ∀ c ∈ [0x00000000#32, 0x00000009#32, 0xFFFFFFFF#32],
    (commandAt c).port = .access ⟨.window 0x00#8, 32, .write c⟩ :: [] ∧ (c.toNat % 16 = 0 ∨ 9 ≤ c.toNat % 16) := by
  intro x hx
  fin_cases hx <;> decide

theorem witness_ReservedFieldWritesOnlyStatus : ∀ c ∈ [0x00000041#32, 0x00000018#32],
    (commandAt c).port = .access ⟨.window 0x00#8, 32, .write c⟩ :: [] ∧
      1 ≤ c.toNat % 16 ∧ c.toNat % 16 ≤ 8 ∧ c &&& mustBeZero (c.toNat % 16) ≠ 0#32 := by
  intro x hx
  fin_cases hx <;> decide

theorem witness_ErrorCodePriority : ∀ c ∈ [0x0000001A#32, 0x00000017#32, 0x00000007#32, 0x00000003#32],
    (commandAt c).port = .access ⟨.window 0x00#8, 32, .write c⟩ :: [] := by
  intro x hx
  fin_cases hx <;> decide

theorem witness_ReadsReturnRegistersUnchanged : ∀ o ∈ [0x00#8, 0x18#8, 0x1C#8, 0x40#8, 0xFC#8],
    (State.reset.withProgram [.access ⟨.window o, 32, .read⟩]).port = .access ⟨.window o, 32, .read⟩ :: [] ∧
      o.toNat % 4 = 0 := by
  intro x hx
  fin_cases hx <;> decide

theorem witness_OperandWritesStoreTheirValue : ∀ o ∈ [0x04#8, 0x08#8, 0x0C#8, 0x10#8, 0x14#8, 0x18#8],
    (State.reset.withProgram [.access ⟨.window o, 32, .write 0xFFFFFFF8#32⟩]).port =
      .access ⟨.window o, 32, .write 0xFFFFFFF8#32⟩ :: [] := by
  intro x hx
  fin_cases hx <;> decide

theorem witness_ReadOnlyRegistersIgnoreWrites : ∀ o ∈ [0x20#8, 0x40#8],
    (State.reset.withProgram [.access ⟨.window o, 32, .write 1#32⟩]).port =
        .access ⟨.window o, 32, .write 1#32⟩ :: [] ∧
      o ∈ [0x20#8, 0x24#8, 0x28#8, 0x30#8, 0x34#8, 0x38#8, 0x3C#8, 0x40#8] := by
  intro x hx
  fin_cases hx <;> decide

theorem witness_ReservedOffsetsReadZeroIgnoreWrites : ∀ o ∈ [0x1C#8, 0x2C#8, 0x44#8, 0xFC#8],
    o.toNat % 4 = 0 ∧ (o = 0x1C#8 ∨ o = 0x2C#8 ∨ 0x44 ≤ o.toNat) ∧
      (State.reset.withProgram [.access ⟨.window o, 32, .read⟩]).port = .access ⟨.window o, 32, .read⟩ :: [] ∧
      (State.reset.withProgram [.access ⟨.window o, 32, .write 1#32⟩]).port =
        .access ⟨.window o, 32, .write 1#32⟩ :: [] := by
  intro x hx
  fin_cases hx <;> decide

theorem witness_NarrowOrMisalignedAccessesAreRefused :
    ((State.reset.withProgram [.access ⟨.window 0x00#8, 16, .read⟩]).port =
        .access ⟨.window 0x00#8, 16, .read⟩ :: [] ∧ 16 ≠ 32) ∧
      ((State.reset.withProgram [.access ⟨.window 0xFF#8, 32, .write 1#32⟩]).port =
        .access ⟨.window 0xFF#8, 32, .write 1#32⟩ :: [] ∧ (0xFF#8).toNat % 4 ≠ 0) := by
  decide

theorem witness_AccessesOutsideTheWindowAreRefused :
    (State.reset.withProgram [.access ⟨.outside 0x100, 32, .read⟩]).port = .access ⟨.outside 0x100, 32, .read⟩ :: [] := by
  decide

theorem witness_HostAddressesMapToOffsets :
    targetOf Config.pBase = .window 0x00#8 ∧ Config.pBase + 0xFF < Config.pBase + 0x100 := by
  constructor
  · simp [targetOf]
  · omega

theorem witness_WrittenRegistersReadBack : ∃ (s : State) (r : Reg) (v : Word) (rest : List PortEvent),
    r ∈ [Reg.cmd, .opa, .opb, .opc, .pin0, .pin1] ∧ s.port = wr r v :: rd r :: rest :=
  ⟨State.reset.withProgram [wr .cmd 0xFFFFFFFF#32, rd .cmd], .cmd, _, _, by decide, rfl⟩

theorem witness_ResetZeroesEveryRegister : ∃ (s : State) (rest : List PortEvent), s.port = .reset :: rest :=
  ⟨State.reset.withProgram [.reset], _, rfl⟩

theorem witness_ResetAbandonsTheAccessInProgress : ∀ k ∈ [AccessKind.read, .write 0x00000003#32],
    (State.reset.withProgram [.resetDuring ⟨.window 0x00#8, 32, k⟩]).port =
      .resetDuring ⟨.window 0x00#8, 32, k⟩ :: [] ∧ (0x00#8).toNat % 4 = 0 := by
  intro x hx
  fin_cases hx <;> decide

theorem witness_OnlyCommandWritesAndResetChangeResults :
    (∃ (s t : State) (a : Access) (rest : List PortEvent),
      s.port = .access a :: rest ∧ step s = .next t ∧ ¬(a.target = .window 0x00#8 ∧ ∃ c, a.kind = .write c)) ∧
    ∃ s : State, s.port = [] ∧ s.status ≠ 0#32 :=
  ⟨⟨State.reset.withProgram [rd .cmd], _, _, _, rfl, rfl, by simp⟩,
    { State.reset with status := 0x80000000#32 }, rfl, by decide⟩

theorem witness_CommandsLeaveOperandsAlone : ∃ (i : Instr) (s t : State), exec i s = .next t :=
  ⟨.scalePos, withOperands 0x42B40000#32 1 2, _, rfl⟩

/-- The invariant holds of the reset state with a command waiting at its port. -/
theorem commandAt_regInv : (commandAt 0x00000003#32).RegInv :=
  ⟨by decide, by decide, by decide, by decide, by decide, by decide, by decide, by decide, by decide, by decide⟩

theorem witness_EveryCommandSetsDone :
    (commandAt 0x00000003#32).port = .access ⟨.window 0x00#8, 32, .write 0x00000003#32⟩ :: [] ∧
      (commandAt 0x00000003#32).RegInv :=
  ⟨rfl, commandAt_regInv⟩

theorem witness_OperandValuesNeverFail : ∃ (i : Instr) (s : State), isDecoder i = true ∧ s.plen.toNat % 16 ≤ 8 :=
  ⟨.decStream, withPayload 0 0 8#32, rfl, by decide⟩

theorem witness_ResultsDependOnlyOnOperands : ∃ (s t : State) (c : Word) (ps pt : List PortEvent),
    s.port = .access ⟨.window 0x00#8, 32, .write c⟩ :: ps ∧
      t.port = .access ⟨.window 0x00#8, 32, .write c⟩ :: pt ∧ sameOperands s t ∧ s.res0 ≠ t.res0 :=
  ⟨commandAt 0x00000003#32, { commandAt 0x00000003#32 with res0 := 1#32 }, _, _, _, rfl, rfl,
    by simp [sameOperands, commandAt], by decide⟩

theorem witness_RepeatedCommandChangesNothing : ∃ (i : Instr) (s t : State), exec i s = .next t :=
  ⟨.decDisc, withPayload 0x4D544851#32 0x33322E31#32 8#32, _, rfl⟩

theorem witness_FailedCommandsKeepResults : ∃ (s t : State) (c : Word) (rest : List PortEvent),
    s.port = .access ⟨.window 0x00#8, 32, .write c⟩ :: rest ∧ step s = .next t ∧ errOf t.status ≠ 0 :=
  ⟨{ commandAt 0x00000009#32 with res0 := 0x00007FFF#32 }, _, _, _, rfl, rfl, by decide⟩

theorem witness_CompletedCommandsWriteDlc : ∀ i ∈ [Instr.encPing 0x05#8, .decStream],
    ∃ t, exec i State.reset = .next t ∧ errOf t.status = 0 := by
  intro i hi
  fin_cases hi
  · exact ⟨_, rfl, by decide⟩
  · exact ⟨_, rfl, by decide⟩

theorem witness_StepKeepsRegisterInvariant : ∃ s t : State, s.RegInv ∧ step s = .next t :=
  ⟨commandAt 0x00000003#32, _, commandAt_regInv, rfl⟩

theorem witness_Sat16NeverWraps :
    (isFinite 0x44937800#32 ∧ 32767 < truncRat (ratOf 0x44937800#32 * scaleFactor .pos)) ∧
      (isFinite 0xC4937800#32 ∧ truncRat (ratOf 0xC4937800#32 * scaleFactor .pos) < lowBound .pos) := by
  refine ⟨⟨by unfold isFinite; decide, ?_⟩, by unfold isFinite; decide, ?_⟩
  · rw [lt_truncRat_iff _ _ (by decide)]
    norm_num [ratOf, expField, fracField, scaleFactor]
  · rw [truncRat_lt_iff _ _ (by decide)]
    norm_num [ratOf, expField, fracField, scaleFactor, lowBound]

/-- One pattern for each clause: beyond and next to each bound. -/
theorem witness_SaturationThresholds :
    (∀ b ∈ [0x44937800#32, 0xC4937800#32, 0x44937400#32, 0xC4937400#32, 0x41040000#32, 0xC103126F#32,
      0x42040000#32, 0xC203126F#32, 0x43480000#32, 0xC3480000#32], isFinite b) ∧
    1179.648 ≤ ratOf 0x44937800#32 ∧ ratOf 0xC4937800#32 ≤ -1179.648 ∧
    (1179.612 ≤ ratOf 0x44937400#32 ∧ ratOf 0x44937400#32 < 1179.648) ∧
    (-1179.648 < ratOf 0xC4937400#32 ∧ ratOf 0xC4937400#32 ≤ -1179.612) ∧
    8.192 ≤ ratOf 0x41040000#32 ∧ ratOf 0xC103126F#32 ≤ -8.192 ∧
    32.768 ≤ ratOf 0x42040000#32 ∧ ratOf 0xC203126F#32 ≤ -32.768 ∧
    163.84 ≤ ratOf 0x43480000#32 ∧ ratOf 0xC3480000#32 ≤ -163.84 := by
  refine ⟨by intro x hx; unfold isFinite; fin_cases hx <;> decide, ?_⟩
  norm_num [ratOf, expField, fracField]

theorem witness_Sat16Corners :
    expField 0x807FFFFF#32 = 0 ∧
      (isFinite 0x39800000#32 ∧ |ratOf 0x39800000#32| < 1 / scaleFactor .vel) ∧ isNaN 0xFFC00000#32 := by
  refine ⟨by decide, ⟨by unfold isFinite; decide, ?_⟩, by unfold isNaN; decide⟩
  norm_num [ratOf, expField, fracField, scaleFactor]

theorem witness_ScaleDescaleWithinOneStep :
    isFinite 0x3F800000#32 ∧ (lowBound .pos : ℚ) < ratOf 0x3F800000#32 * scaleFactor .pos ∧
      ratOf 0x3F800000#32 * scaleFactor .pos < 32768 := by
  refine ⟨by unfold isFinite; decide, ?_⟩
  norm_num [ratOf, expField, fracField, scaleFactor, lowBound]

theorem witness_ScaleAfterDescaleIsWithinOneStepOfZero :
    lowBound .pos ≤ (0x8001#16).toInt ∧ lowBound .vel ≤ (0x8000#16).toInt := by decide

theorem witness_FloatStreamFrames : ∃ (ft vo : Bool) (s : State) (p v f : Scaled),
    p = (if vo then ⟨-32768, false, false⟩ else refSat16 s.opa .pos) ∧
      v = refSat16 s.opb .vel ∧ f = refSat16 s.opc (if ft then .acc else .tqe) :=
  ⟨true, true, withOperands 0x42B40000#32 0x40000000#32 0x40400000#32, _, _, _, rfl, rfl, rfl⟩

theorem witness_RawStreamFrames : ∃ (vo : Bool) (s : State) (p v f : Half),
    p = (if vo then 0x8000#16 else s.opa.extractLsb' 0 16) ∧ v = s.opb.extractLsb' 0 16 ∧
      f = s.opc.extractLsb' 0 16 :=
  ⟨false, withOperands 0x00000064#32 0xFFFFE890#32 0x000001F4#32, _, _, _, rfl, rfl, rfl⟩

theorem witness_ArbitrationIdentifiers : ∀ i ∈ [Instr.enc90f true, .enc90r false, .encAdf false, .encAdr true,
    .encMode 0x0A#8 0xFF#8, .encRegw 0x20#8 0x00#8, .encPing 0xFF#8],
    isEncoder i = true ∧ ∃ t, exec i State.reset = .next t := by
  intro i hi
  fin_cases hi <;> exact ⟨rfl, _, rfl⟩

theorem witness_EncodersPadWith0x50 : ∃ (i : Instr) (s t : State), isEncoder i = true ∧ exec i s = .next t :=
  ⟨.encMode 0x00#8 0x01#8, State.reset, _, rfl, rfl⟩

theorem witness_StreamDecodeResults : ∀ len ∈ [0#32, 8#32], (withPayload 0 0 len).plen.toNat % 16 ≤ 8 := by
  intro x hx
  fin_cases hx <;> decide

theorem witness_DiscoveryDecodeResults : ∀ len ∈ [0#32, 3#32, 4#32, 7#32, 8#32],
    (withPayload 0x4D544851#32 0x33322E31#32 len).plen.toNat % 16 ≤ 8 := by
  intro x hx
  fin_cases hx <;> decide

theorem witness_OnlyDecodersRaiseBadLen :
    (∀ len ∈ [9#32, 15#32], isDecoder .decDisc = true ∧ 8 < (withPayload 0 0 len).plen.toNat % 16) ∧
      (∀ i ∈ [Instr.enc90f false, .scalePos, .descaleTqe], isDecoder i = false) ∧
      (∀ len ∈ [0#32, 8#32], (withPayload 0 0 len).plen.toNat % 16 ≤ 8) :=
  ⟨by intro x hx; fin_cases hx <;> decide, by decide, by intro x hx; fin_cases hx <;> decide⟩

theorem witness_DiscoveryIgnoresBytesBeyondLength : ∃ s t : State, s.plen = t.plen ∧ s.plen.toNat % 16 ≤ 8 ∧
    (∀ k : Nat, k < s.plen.toNat % 16 →
      (s.pin1 ++ s.pin0).extractLsb' (8 * k) 8 = (t.pin1 ++ t.pin0).extractLsb' (8 * k) 8) ∧ s.pin1 ≠ t.pin1 :=
  ⟨withPayload 0x4D544851#32 0x33322E31#32 4#32, withPayload 0x4D544851#32 0xFFFFFFFF#32 4#32,
    rfl, by decide, by decide, by decide⟩

theorem witness_StreamPayloadRoundTrip : ∃ (s : State) (p v f : Half),
    s.opa.extractLsb' 0 16 = p ∧ s.opb.extractLsb' 0 16 = v ∧ s.opc.extractLsb' 0 16 = f :=
  ⟨withOperands 0x00008000#32 0x00001F40#32 0x00000258#32, _, _, _, rfl, rfl, rfl⟩

end Sys2Proof.Tests
end

/-! Proofs for the scope family: the address map, and DESCALE's rounding to the nearest binary32. -/

section

namespace Sys2Proof.Machine

/-! ### The address map -/

/-- A host address is offset `o` exactly when it is `P_BASE + o` (R35). -/
theorem targetOf_eq_window {a : Nat} {o : BitVec 8} :
    targetOf a = .window o ↔ a = Config.pBase + o.toNat := by
  unfold targetOf
  split_ifs with h
  · rw [Target.window.injEq, ← BitVec.toNat_inj, BitVec.toNat_ofNat]
    omega
  · simp only [false_iff]
    omega

/-- An address before or after the 256 of the window is outside (log entry 6). -/
theorem targetOf_outside {a : Nat} (h : a < Config.pBase ∨ Config.pBase + 0xFF < a) :
    targetOf a = .outside a := by
  unfold targetOf
  rw [if_neg (by omega)]

theorem pBase_dvd : 0x100 ∣ Config.pBase := Dvd.intro _ rfl

/-- The low 8 bits of `P_BASE + o` are `o` (R35). -/
theorem pBase_add_mod (o : BitVec 8) : (Config.pBase + o.toNat) % 0x100 = o.toNat := by
  have := pBase_dvd
  omega

/-- Settles O15, from the exact condition for each target of `targetOf`. -/
theorem hostAddressesMapToOffsets : Obligations.HostAddressesMapToOffsets := by
  refine ⟨pBase_dvd, fun o => targetOf_eq_window.mpr rfl, fun a o h => ?_, fun a => targetOf_outside⟩
  obtain rfl := targetOf_eq_window.mp h
  exact ⟨pBase_add_mod o, rfl⟩

/-! ### Nearest on a grid

`r` is rounded to `n` steps of width `u`, no more than half a step away. -/

section Grid

variable {u r : ℚ} {n : ℤ}

/-- Every grid point other than the rounded one is at least half a step away. -/
theorem step_le_two_mul_dist {z : ℤ} (hu : 0 < u) (hn : 2 * |n * u - r| ≤ u) (hz : z ≠ n) :
    u ≤ 2 * |z * u - r| := by
  have hone : (1 : ℚ) ≤ |(z : ℚ) - n| := by exact_mod_cast Int.one_le_abs (sub_ne_zero.mpr hz)
  have hgap : u ≤ |z * u - n * u| := by
    rw [← sub_mul, abs_mul, abs_of_pos hu]
    exact le_mul_of_one_le_left hu.le hone
  have htri : |z * u - n * u| ≤ |z * u - r| + |n * u - r| := by
    rw [abs_sub_comm (n * u : ℚ) r]
    exact abs_sub_le _ _ _
  linarith

theorem dist_le_dist_grid (hu : 0 < u) (hn : 2 * |n * u - r| ≤ u) (z : ℤ) :
    |n * u - r| ≤ |z * u - r| := by
  rcases eq_or_ne z n with rfl | hz
  · exact le_rfl
  · linarith [step_le_two_mul_dist hu hn hz]

/-- A value of magnitude below `c` steps, with `r` at `c` steps or beyond, is farther from `r` than the
rounded one. -/
theorem dist_lt_dist_of_abs_lt {v : ℚ} {c : ℕ} (hu : 0 < u) (hn : 2 * |n * u - r| ≤ u)
    (hr : c * u ≤ |r|) (hv : |v| < c * u) : |n * u - r| < |v - r| := by
  have hedge : |n * u - r| ≤ |r| - c * u := by
    rcases le_total 0 r with h | h
    · have hz := dist_le_dist_grid hu hn (c : ℤ)
      rw [abs_of_nonneg h] at hr ⊢
      rwa [Int.cast_natCast, abs_of_nonpos (by linarith : (c : ℚ) * u - r ≤ 0), neg_sub] at hz
    · have hz := dist_le_dist_grid hu hn (-c : ℤ)
      rw [abs_of_nonpos h] at hr ⊢
      rw [Int.cast_neg, Int.cast_natCast, abs_of_nonneg (by linarith : 0 ≤ -(c : ℚ) * u - r)] at hz
      linarith
  have htri : |r| - |v| ≤ |v - r| := by
    rw [abs_sub_comm]
    exact abs_sub_abs_le_abs_sub _ _
  linarith

end Grid

/-! ### The values binary32 has -/

/-- A pattern's value is a signed significand below `2^24` times a power of two (R10). -/
theorem ratOf_eq_significand (b : Word) : ∃ m j : ℤ, |m| < 2 ^ 24 ∧ ratOf b = m * (2 : ℚ) ^ j := by
  have hf : fracField b < 2 ^ 23 := Nat.mod_lt _ (by decide)
  have hsign : ∀ m : ℕ, |(if 2 ^ 31 ≤ b.toNat then -1 else 1) * (m : ℤ)| = m := by
    intro m
    split_ifs <;> simp
  by_cases he : expField b = 0
  · refine ⟨(if 2 ^ 31 ≤ b.toNat then -1 else 1) * (fracField b : ℕ), -149, ?_, ?_⟩
    · rw [hsign]
      omega
    · rw [ratOf, if_pos he]
      push_cast
      ring
  · refine ⟨(if 2 ^ 31 ≤ b.toNat then -1 else 1) * (2 ^ 23 + fracField b : ℕ), expField b - 150, ?_, ?_⟩
    · rw [hsign]
      omega
    · rw [ratOf, if_neg he]
      push_cast
      ring

/-- Against the grid of step `2^k`, a binary32 value is a grid point or lies below `2^23` steps. -/
theorem ratOf_small_or_on_grid (b : Word) (k : ℤ) :
    |ratOf b| < (2 ^ 23 : ℕ) * (2 : ℚ) ^ k ∨ ∃ z : ℤ, ratOf b = z * (2 : ℚ) ^ k := by
  obtain ⟨m, j, hm, hb⟩ := ratOf_eq_significand b
  rcases lt_or_ge j k with h | h
  · left
    have hm' : (|m| : ℚ) < 2 ^ 24 := by exact_mod_cast hm
    have hstep : (2 : ℚ) ^ (j + 1) ≤ 2 ^ k := zpow_le_zpow_right₀ (by norm_num) (by omega)
    have hj : (0 : ℚ) < 2 ^ j := by positivity
    rw [zpow_add_one₀ (by norm_num)] at hstep
    rw [hb, abs_mul, abs_of_pos hj]
    push_cast
    nlinarith
  · right
    refine ⟨m * 2 ^ (j - k).toNat, ?_⟩
    have hj : j = ((j - k).toNat : ℤ) + k := by omega
    rw [hb, hj, zpow_add₀ (by norm_num), zpow_natCast, ← hj]
    push_cast
    ring

/-- A pattern is `rne32(r)` when it is `n` steps of `2^k`, at most half a step from `r`, even at exactly
half, and `r` has at least 24 bits above the step (R12). -/
theorem isRne32_of_nearest_step {r : ℚ} {p : Word} {n k : ℤ} (hfin : isFinite p)
    (hp : ratOf p = n * (2 : ℚ) ^ k) (hr : (2 ^ 23 : ℕ) * (2 : ℚ) ^ k ≤ |r|)
    (hn : 2 * |n * (2 : ℚ) ^ k - r| ≤ 2 ^ k)
    (heven : 2 * |n * (2 : ℚ) ^ k - r| = 2 ^ k → fracField p % 2 = 0) : isRne32 r p := by
  have hu : (0 : ℚ) < 2 ^ k := by positivity
  refine ⟨hfin, ?_, fun b _ => ?_, fun b _ hne htie => ?_⟩
  · rintro rfl
    rw [abs_zero] at hr
    push_cast at hr
    linarith
  · rw [hp]
    rcases ratOf_small_or_on_grid b k with hb | ⟨z, hb⟩
    · exact (dist_lt_dist_of_abs_lt hu hn hr hb).le
    · rw [hb]
      exact dist_le_dist_grid hu hn z
  · rw [hp] at hne htie
    rcases ratOf_small_or_on_grid b k with hb | ⟨z, hb⟩
    · exact absurd htie (dist_lt_dist_of_abs_lt hu hn hr hb).ne'
    · rw [hb] at hne htie
      have hz : z ≠ n := by
        rintro rfl
        exact hne rfl
      have hfar := step_le_two_mul_dist hu hn hz
      exact heven (by linarith)

/-! ### Patterns put together from their fields -/

/-- The pattern of a sign and the 31 bits below it. -/
def signedPattern (neg : Prop) [Decidable neg] (x : ℕ) : Word :=
  BitVec.ofNat 32 ((if neg then 2 ^ 31 else 0) + x)

section Pattern

variable (neg : Prop) [Decidable neg]

theorem signedPattern_toNat {x : ℕ} (hx : x < 2 ^ 31) :
    (signedPattern neg x).toNat = (if neg then 2 ^ 31 else 0) + x := by
  rw [signedPattern, BitVec.toNat_ofNat]
  split_ifs <;> omega

variable {e f : ℕ}

theorem expField_signedPattern (he : e < 256) (hf : f < 2 ^ 23) :
    expField (signedPattern neg (e * 2 ^ 23 + f)) = e := by
  rw [expField, signedPattern_toNat neg (by omega)]
  split_ifs <;> omega

theorem fracField_signedPattern (he : e < 256) (hf : f < 2 ^ 23) :
    fracField (signedPattern neg (e * 2 ^ 23 + f)) = f := by
  rw [fracField, signedPattern_toNat neg (by omega)]
  split_ifs <;> omega

/-- The value of a pattern with a nonzero exponent field (R10). -/
theorem ratOf_signedPattern (h1 : 1 ≤ e) (he : e < 256) (hf : f < 2 ^ 23) :
    ratOf (signedPattern neg (e * 2 ^ 23 + f)) =
      (if neg then -1 else 1) * ((2 ^ 23 + f) * (2 : ℚ) ^ ((e : ℤ) - 150)) := by
  have hsign : 2 ^ 31 ≤ (signedPattern neg (e * 2 ^ 23 + f)).toNat ↔ neg := by
    rw [signedPattern_toNat neg (by omega)]
    by_cases h : neg
    · simp only [h, if_true, iff_true]
      omega
    · simp only [h, if_false, iff_false]
      omega
  rw [ratOf, expField_signedPattern neg he hf, fracField_signedPattern neg he hf,
    if_neg (by omega : ¬e = 0)]
  simp only [hsign]

/-- The 24-bit significand `n`, added above the exponent field `E`, gives the value `n × 2^(E−149)`; at
`n = 2^24` the carry moves the exponent field up by one (R10, R12). -/
theorem signedPattern_significand {E n : ℕ} (hE : E ≤ 252) (h1 : 2 ^ 23 ≤ n) (h2 : n ≤ 2 ^ 24) :
    isFinite (signedPattern neg (E * 2 ^ 23 + n)) ∧
    fracField (signedPattern neg (E * 2 ^ 23 + n)) % 2 = n % 2 ∧
    ratOf (signedPattern neg (E * 2 ^ 23 + n)) =
      (if neg then -1 else 1) * (n * (2 : ℚ) ^ ((E : ℤ) - 149)) := by
  unfold isFinite
  rcases h2.lt_or_eq with hlt | rfl
  · obtain ⟨f, rfl⟩ := Nat.exists_eq_add_of_le h1
    have hx : E * 2 ^ 23 + (2 ^ 23 + f) = (E + 1) * 2 ^ 23 + f := by ring
    have hf : f < 2 ^ 23 := by omega
    have hexp : ((E + 1 : ℕ) : ℤ) - 150 = E - 149 := by omega
    rw [hx, expField_signedPattern neg (by omega) hf, fracField_signedPattern neg (by omega) hf,
      ratOf_signedPattern neg (by omega) (by omega) hf, hexp]
    refine ⟨by omega, by omega, ?_⟩
    push_cast
    rfl
  · have hx : E * 2 ^ 23 + 2 ^ 24 = (E + 2) * 2 ^ 23 + 0 := by ring
    have hexp : ((E + 2 : ℕ) : ℤ) - 150 = E - 149 + 1 := by omega
    rw [hx, expField_signedPattern neg (by omega) (by omega), fracField_signedPattern neg (by omega) (by omega),
      ratOf_signedPattern neg (by omega) (by omega) (by omega), hexp, zpow_add_one₀ (by norm_num)]
    refine ⟨by omega, by omega, ?_⟩
    push_cast
    ring

end Pattern

/-! ### rne32 of a quotient in the normal range -/

/-- Putting the powers of two on their own sides divides the quotient by `2^k`. -/
theorem quotient_in_steps (a d : ℕ) (k : ℤ) :
    ((a * 2 ^ (-k).toNat : ℕ) : ℚ) / (d * 2 ^ k.toNat : ℕ) = (a : ℚ) / d / 2 ^ k := by
  have hk : (2 : ℚ) ^ k = 2 ^ k.toNat / 2 ^ (-k).toNat := by
    rw [← zpow_natCast, ← zpow_natCast, ← zpow_sub₀ (by norm_num)]
    congr 1
    omega
  rw [hk]
  push_cast
  field_simp

/-- `roundHalfEven` in rationals: within half of the quotient, and even at exactly half (R12). -/
theorem roundHalfEven_near (num den : ℕ) (hd : 0 < den) :
    2 * |(roundHalfEven num den : ℚ) - num / den| ≤ 1 ∧
      (2 * |(roundHalfEven num den : ℚ) - num / den| = 1 → roundHalfEven num den % 2 = 0) := by
  obtain ⟨hnear, heven⟩ := roundHalfEven_spec num den hd
  have hd' : (0 : ℚ) < den := by exact_mod_cast hd
  have hscale : 2 * |(roundHalfEven num den : ℚ) - num / den| * den =
      ((2 * |(roundHalfEven num den : ℤ) * den - num| : ℤ) : ℚ) := by
    push_cast
    rw [mul_assoc, ← abs_of_pos hd', ← abs_mul, abs_of_pos hd', sub_mul, div_mul_cancel₀ _ hd'.ne']
  constructor
  · rw [← mul_le_mul_iff_left₀ hd', hscale, one_mul]
    exact_mod_cast hnear
  · intro h
    rw [h, one_mul] at hscale
    exact heven (by exact_mod_cast hscale.symm)

/-- The significand of a magnitude: in steps of `2^k` it is at most half a step from `a / d`, and even at
exactly half (R12). -/
theorem significand_near (a d : ℕ) (k : ℤ) (hd : 0 < d) {n : ℕ}
    (hn : n = roundHalfEven (a * 2 ^ (-k).toNat) (d * 2 ^ k.toNat)) :
    2 * |(n : ℚ) * 2 ^ k - a / d| ≤ 2 ^ k ∧ (2 * |(n : ℚ) * 2 ^ k - a / d| = 2 ^ k → n % 2 = 0) := by
  have hu : (0 : ℚ) < 2 ^ k := by positivity
  obtain ⟨hnear, heven⟩ := roundHalfEven_near (a * 2 ^ (-k).toNat) (d * 2 ^ k.toNat) (by positivity)
  rw [← hn, quotient_in_steps] at hnear heven
  have hscale : 2 * |(n : ℚ) * 2 ^ k - a / d| = 2 * |(n : ℚ) - a / d / 2 ^ k| * 2 ^ k := by
    rw [mul_assoc, ← abs_of_pos hu, ← abs_mul, abs_of_pos hu, sub_mul, div_mul_cancel₀ _ hu.ne']
  rw [hscale]
  exact ⟨mul_le_of_le_one_left hu.le hnear, fun h => heven ((mul_eq_right₀ hu.ne').mp h)⟩

/-- The unit exponent of a magnitude in steps of itself: `2^23 ≤ a / d / 2^k < 2^24` (R12). -/
theorem unitExp_quotient {a d : ℕ} (ha : 0 < a) (hd : 0 < d) :
    (2 : ℚ) ^ 23 * 2 ^ unitExp a d ≤ a / d ∧ (a : ℚ) / d < 2 ^ 24 * 2 ^ unitExp a d := by
  have hd' : (0 : ℚ) < d := by exact_mod_cast hd
  obtain ⟨hlo, hhi⟩ := unitExp_spec a d ha hd
  rw [le_div_iff₀ hd', div_lt_iff₀ hd']
  constructor <;> linarith

/-- A magnitude in binary32's normal range has a unit exponent whose pattern is in range. -/
theorem unitExp_of_normal {a d : ℕ} (ha : 0 < a) (hd : 0 < d)
    (hlo : (2 : ℚ) ^ (-126 : ℤ) ≤ a / d) (hhi : (a : ℚ) / d < 2 ^ (127 : ℤ)) :
    -149 ≤ unitExp a d ∧ unitExp a d ≤ 103 := by
  obtain ⟨h1, h2⟩ := unitExp_quotient ha hd
  rw [← zpow_natCast, ← zpow_add₀ (by norm_num)] at h1 h2
  have hup := (zpow_lt_zpow_iff_right₀ (by norm_num : (1 : ℚ) < 2)).mp (h1.trans_lt hhi)
  have hdown := (zpow_lt_zpow_iff_right₀ (by norm_num : (1 : ℚ) < 2)).mp (hlo.trans_lt h2)
  constructor <;> push_cast at hup hdown <;> omega

/-- Rounding a significand in [2^23, 2^24) stays in [2^23, 2^24]. -/
theorem significand_bounds {n : ℕ} {u x : ℚ} (hu : 0 < u) (hn : 2 * |n * u - x| ≤ u)
    (hlo : 2 ^ 23 * u ≤ x) (hhi : x < 2 ^ 24 * u) : 2 ^ 23 ≤ n ∧ n ≤ 2 ^ 24 := by
  obtain ⟨h1, h2⟩ := abs_le.mp (by linarith : |n * u - x| ≤ u / 2)
  have hlow : ((2 ^ 23 : ℕ) : ℚ) < n + 1 := by
    push_cast
    nlinarith
  have hhigh : (n : ℚ) < (2 ^ 24 : ℕ) + 1 := by
    push_cast
    nlinarith
  have hlow' : 2 ^ 23 < n + 1 := by exact_mod_cast hlow
  have hhigh' : n < 2 ^ 24 + 1 := by exact_mod_cast hhigh
  omega

theorem rne32_eq_signedPattern {p : ℤ} (d : ℕ) (hp : p ≠ 0) :
    rne32 p d = signedPattern (p < 0) (rne32Mag p.natAbs d) := by
  rw [rne32, if_neg hp, signedPattern]

theorem sign_eq_ite {p : ℤ} (hp : p ≠ 0) : (p.sign : ℚ) = if p < 0 then -1 else 1 := by
  rcases lt_or_gt_of_ne hp with h | h
  · rw [if_pos h, Int.sign_eq_neg_one_of_neg h, Int.cast_neg, Int.cast_one]
  · rw [if_neg h.not_gt, Int.sign_eq_one_of_pos h, Int.cast_one]

/-- `rne32` of a nonzero quotient in binary32's normal range: a finite pattern whose value is the
quotient's sign on `n` steps of the unit `2^k`, at most half a step from the magnitude, and whose
fraction is even at exactly half (R12). -/
theorem rne32_of_normal {p : ℤ} {d : ℕ} (hp : p ≠ 0) (hd : 0 < d)
    (hlo : (2 : ℚ) ^ (-126 : ℤ) ≤ (p.natAbs : ℚ) / d) (hhi : (p.natAbs : ℚ) / d < 2 ^ (127 : ℤ)) :
    isFinite (rne32 p d) ∧ ∃ n : ℕ,
      ratOf (rne32 p d) = p.sign * (n * (2 : ℚ) ^ unitExp p.natAbs d) ∧
      2 * |(n : ℚ) * 2 ^ unitExp p.natAbs d - p.natAbs / d| ≤ 2 ^ unitExp p.natAbs d ∧
      (2 * |(n : ℚ) * 2 ^ unitExp p.natAbs d - p.natAbs / d| = 2 ^ unitExp p.natAbs d →
        fracField (rne32 p d) % 2 = 0) := by
  have ha : 0 < p.natAbs := Int.natAbs_pos.mpr hp
  obtain ⟨hk1, hk2⟩ := unitExp_of_normal ha hd hlo hhi
  obtain ⟨hx1, hx2⟩ := unitExp_quotient ha hd
  rw [rne32_eq_signedPattern d hp, rne32Mag]
  generalize unitExp p.natAbs d = k at *
  generalize hn : roundHalfEven (p.natAbs * 2 ^ (-k).toNat) (d * 2 ^ k.toNat) = n
  obtain ⟨hnear, heven⟩ := significand_near p.natAbs d k hd hn.symm
  obtain ⟨hn1, hn2⟩ := significand_bounds (by positivity) hnear hx1 hx2
  obtain ⟨hfin, hfrac, hval⟩ :=
    signedPattern_significand (p < 0) (by omega : (k + 149).toNat ≤ 252) hn1 hn2
  rw [show ((k + 149).toNat : ℤ) - 149 = k by omega, ← sign_eq_ite hp] at hval
  exact ⟨hfin, n, hval, hnear, fun h => hfrac.trans (heven h)⟩

/-- `rne32` of a quotient in binary32's normal range is the nearest pattern, ties to even (R12). -/
theorem isRne32_rne32_of_normal {p : ℤ} {d : ℕ} (hp : p ≠ 0) (hd : 0 < d)
    (hlo : (2 : ℚ) ^ (-126 : ℤ) ≤ |(p : ℚ) / d|) (hhi : |(p : ℚ) / d| < 2 ^ (127 : ℤ)) :
    isRne32 ((p : ℚ) / d) (rne32 p d) := by
  have habs : |(p : ℚ) / d| = (p.natAbs : ℚ) / d := by
    rw [abs_div, Nat.abs_cast, Nat.cast_natAbs, Int.cast_abs]
  have hlow := (unitExp_quotient (Int.natAbs_pos.mpr hp) hd).1
  rw [habs] at hlo hhi
  obtain ⟨hfin, n, hval, hnear, heven⟩ := rne32_of_normal hp hd hlo hhi
  generalize unitExp p.natAbs d = k at *
  have hsign : |(p.sign : ℚ)| = 1 := by exact_mod_cast Int.abs_sign_of_ne_zero hp
  have hdist : |((p.sign * n : ℤ) : ℚ) * 2 ^ k - p / d| = |(n : ℚ) * 2 ^ k - p.natAbs / d| := by
    have hp' : (p : ℚ) = p.sign * p.natAbs := by
      rw [← Int.cast_natCast p.natAbs, ← Int.cast_mul, Int.sign_mul_natAbs]
    rw [hp', Int.cast_mul, Int.cast_natCast, mul_assoc, mul_div_assoc, ← mul_sub, abs_mul,
      hsign, one_mul]
  refine isRne32_of_nearest_step (n := p.sign * n) (k := k) hfin ?_ ?_ (hdist ▸ hnear) (hdist ▸ heven)
  · rw [hval]
    push_cast
    ring
  · rw [habs]
    exact_mod_cast hlow

/-- `rne32(0)` is +0, the pattern nearest 0 (R12). -/
theorem isRne32_zero : isRne32 0 0#32 := by
  have hval : ratOf 0#32 = 0 := by norm_num [ratOf, expField, fracField]
  refine ⟨by unfold isFinite; decide, fun _ => rfl, fun b _ => ?_, fun _ _ _ _ => rfl⟩
  rw [hval, sub_zero, abs_zero]
  exact abs_nonneg _

/-! ### DESCALE -/

/-- The scale factor is its numerator over its denominator (R6). -/
theorem scaleFactor_eq (qty : Qty) : scaleFactor qty = (qty.factorNum : ℚ) / qty.factorDen := by
  cases qty <;> norm_num [scaleFactor, Qty.factorNum, Qty.factorDen]

theorem factorNum_pos (qty : Qty) : 0 < qty.factorNum := by cases qty <;> decide

theorem factorDen_pos (qty : Qty) : 0 < qty.factorDen := by cases qty <;> decide

/-- Every scale factor lies between 1 and 4000 (R6). -/
theorem scaleFactor_bounds (qty : Qty) : 1 ≤ scaleFactor qty ∧ scaleFactor qty ≤ 4000 := by
  cases qty <;> norm_num [scaleFactor]

/-- The quotient DESCALE divides out is the field's physical value (R74 to R78). -/
theorem physical_eq_quotient (q : ℤ) (qty : Qty) :
    physical q qty = ((q * (qty.factorDen : ℤ) : ℤ) : ℚ) / qty.factorNum := by
  rw [physical, scaleFactor_eq, div_div_eq_mul_div]
  push_cast
  rfl

/-- A nonzero int16 field's physical value is far inside binary32's normal range (R74). -/
theorem physical_normal {h : Half} (hne : h.toInt ≠ 0) (qty : Qty) :
    (2 : ℚ) ^ (-126 : ℤ) ≤ |physical h.toInt qty| ∧ |physical h.toInt qty| < 2 ^ (127 : ℤ) := by
  obtain ⟨hF1, hF2⟩ := scaleFactor_bounds qty
  have hF : 0 < scaleFactor qty := by linarith
  have hq1 : (1 : ℚ) ≤ |(h.toInt : ℚ)| := by exact_mod_cast Int.one_le_abs hne
  have hq2 : |(h.toInt : ℚ)| ≤ 32768 := by
    have hlo := BitVec.le_toInt h
    have hhi := BitVec.toInt_lt (x := h)
    exact_mod_cast abs_le.mpr ⟨by omega, by omega⟩
  rw [physical, abs_div, abs_of_pos hF, le_div_iff₀ hF, div_lt_iff₀ hF]
  constructor
  · calc (2 : ℚ) ^ (-126 : ℤ) * scaleFactor qty ≤ 2 ^ (-126 : ℤ) * 4000 := by gcongr
      _ ≤ 1 := by norm_num
      _ ≤ _ := hq1
  · calc |(h.toInt : ℚ)| ≤ 32768 := hq2
      _ < 2 ^ (127 : ℤ) * 1 := by norm_num
      _ ≤ _ := by gcongr

/-- `descale` is `rne32(q / F)` of the field (R75 to R78). -/
theorem isRne32_descale (h : Half) (qty : Qty) : isRne32 (physical h.toInt qty) (descale h qty) := by
  rw [descale, s16]
  by_cases hq : h.toInt = 0
  · rw [hq, physical, Int.cast_zero, zero_div, zero_mul, rne32, if_pos rfl]
    exact isRne32_zero
  · obtain ⟨hlo, hhi⟩ := physical_normal hq qty
    have hp : h.toInt * (qty.factorDen : ℤ) ≠ 0 :=
      mul_ne_zero hq (by exact_mod_cast (factorDen_pos qty).ne')
    rw [physical_eq_quotient] at hlo hhi ⊢
    exact isRne32_rne32_of_normal hp (factorNum_pos qty) hlo hhi

theorem lowWord_zero : Payload.zero.lowWord = 0#32 := by decide

theorem highWord_zero : Payload.zero.highWord = 0#32 := by decide

/-- A completed command with no flag shows DONE alone (R25, R56). -/
theorem completedStatus_no_flags : completedStatus {} = 0x80000000#32 := by decide

/-- A DESCALE command completes with the DESCALE template of its quantity (40_scaler.md section 3). -/
theorem exec_descaleInstr (qty : Qty) (s : State) :
    exec (descaleInstr qty) s = .next (complete (descaleResults qty s) s) := by
  cases qty <;> exact exec_eq _ s

/-- What the DESCALE template writes: RES0, DONE alone in STATUS, and 0 in every other result (R57). -/
theorem complete_descaleResults (qty : Qty) (s : State) :
    complete (descaleResults qty s) s = { s with
      res0 := descale (rawOperand s.opa) qty
      res1 := 0#32, res2 := 0#32, pout0 := 0#32, pout1 := 0#32, arb := 0#32, dlc := 0#32
      status := 0x80000000#32 } := by
  simp only [complete, descaleResults, lowWord_zero, highWord_zero, completedStatus_no_flags,
    BitVec.setWidth_zero]

/-- Settles O35: the pattern is `descale` of OPA[15:0]. -/
theorem descaleIsNearestEven : Obligations.DescaleIsNearestEven := by
  intro qty s
  refine ⟨descale (rawOperand s.opa) qty, isRne32_descale (rawOperand s.opa) qty, ?_⟩
  rw [exec_descaleInstr, complete_descaleResults]

end Sys2Proof.Machine

end

/-! Proofs for the state family: the registers' invariant, the register map seen from the port, and what
a command may read and write. -/

section

namespace Sys2Proof.Machine

/-! ### Accesses of the window -/

/-- A step that takes a read answers `hostRead` and keeps every register (R43). -/
theorem step_read {s : State} {o : BitVec 8} {rest : List PortEvent}
    (h : s.port = .access ⟨.window o, 32, .read⟩ :: rest) (ho : o.toNat % 4 = 0) :
    step s = .next { s with port := rest, response := .readData (hostRead s o) } := by
  rw [step_of_port h, takeEvent_window ho]
  rfl

/-- A step that takes a write is `hostWrite` (R43). -/
theorem step_write {s : State} {o : BitVec 8} {v : Word} {rest : List PortEvent}
    (h : s.port = .access ⟨.window o, 32, .write v⟩ :: rest) (ho : o.toNat % 4 = 0) :
    step s = hostWrite o v { s with port := rest, response := .writeDone } := by
  rw [step_of_port h, takeEvent_window ho]
  rfl

theorem offset_aligned (r : Reg) : r.offset.toNat % 4 = 0 := by cases r <;> rfl

theorem and_fullMask (w : Word) : w &&& 0xFFFFFFFF#32 = w := BitVec.and_allOnes

theorem definedBits_full : ∀ {r : Reg}, r ∈ [Reg.cmd, .opa, .opb, .opc, .pin0, .pin1] →
    definedBits r = 0xFFFFFFFF#32 := by
  decide

/-- A register without reserved bits reads as the whole word it holds (R43). -/
theorem hostRead_full {r : Reg} (h : definedBits r = 0xFFFFFFFF#32) (s : State) :
    hostRead s r.offset = readReg s r := by
  rw [hostRead_offset, h, and_fullMask]

/-- A write to a RO register is ignored (R31). -/
theorem hostWrite_readOnly {o : BitVec 8}
    (h : o ∈ [0x20#8, 0x24#8, 0x28#8, 0x30#8, 0x34#8, 0x38#8, 0x3C#8, 0x40#8]) (v : Word) (s : State) :
    hostWrite o v s = .next s := by
  simp only [List.mem_cons, List.not_mem_nil, or_false] at h
  rcases h with rfl | rfl | rfl | rfl | rfl | rfl | rfl | rfl <;> rfl

/-- A write to an offset that names no register is ignored (R30). -/
theorem hostWrite_reserved {o : BitVec 8} (h : regAt o = none) (v : Word) (s : State) :
    hostWrite o v s = .next s := by
  simp [hostWrite, h]

/-- The offsets that name a register (10_state.md section 3). -/
theorem regAt_eq_none {o : BitVec 8} :
    regAt o = none ↔ o ∉ [0x00#8, 0x04#8, 0x08#8, 0x0C#8, 0x10#8, 0x14#8, 0x18#8, 0x20#8, 0x24#8, 0x28#8,
      0x30#8, 0x34#8, 0x38#8, 0x3C#8, 0x40#8] := by
  revert o
  decide +kernel

/-- An offset that names no register reads as 0 (R30). -/
theorem hostRead_reserved {o : BitVec 8} (h : regAt o = none) (s : State) : hostRead s o = 0#32 := by
  simp [hostRead, h]

/-- A write to one of the six full-width RW registers is stored there and consumes no further event,
whatever command it runs (R17 to R19, R43). -/
theorem hostWrite_stores {r : Reg} (hr : r ∈ [Reg.cmd, .opa, .opb, .opc, .pin0, .pin1]) (v : Word)
    (s : State) : ∃ t, hostWrite r.offset v s = .next t ∧ readReg t r = v ∧ t.port = s.port := by
  simp only [List.mem_cons, List.not_mem_nil, or_false] at hr
  rcases hr with rfl | rfl | rfl | rfl | rfl | rfl
  · rcases executeCommand_cases v { s with cmd := v } with ⟨r, h⟩ | ⟨e, h⟩
    · exact ⟨_, h, rfl, rfl⟩
    · exact ⟨_, h, rfl, rfl⟩
  all_goals exact ⟨_, rfl, rfl, rfl⟩

/-! ### What a command can do -/

/-- The states a command can answer: BAD_LEN raised, or its own results written. -/
theorem exec_next {i : Instr} {s t : State} (h : exec i s = .next t) :
    t = raise .badLen s ∨ t = complete (resultsOf s i) s := by
  rw [exec_eq] at h
  split at h
  · exact .inl (by simpa using h.symm)
  · exact .inr (by simpa using h.symm)

/-- The states `Execute(c)` can answer: an error raised, or the results of a command written. -/
theorem executeCommand_next {c : Word} {s t : State} (h : executeCommand c s = .next t) :
    (∃ e, t = raise e s) ∨ ∃ i, t = complete (resultsOf s i) s := by
  unfold executeCommand at h
  split at h
  next i _ => exact (exec_next h).imp (⟨_, ·⟩) (⟨i, ·⟩)
  next e _ => exact .inl ⟨e, by simpa using h.symm⟩

/-- On the same operands a command ends the same way: with the same error, or with the same results (R16). -/
theorem exec_congr {s t : State} (h : sameOperands s t) (i : Instr) :
    (exec i s = .next (raise .badLen s) ∧ exec i t = .next (raise .badLen t)) ∨
      ∃ r, exec i s = .next (complete r s) ∧ exec i t = .next (complete r t) := by
  have hres : resultsOf s i = resultsOf t i := resultsOf_congr h i
  obtain ⟨-, -, -, -, -, hplen⟩ := h
  rw [exec_eq, exec_eq, hplen, hres]
  split
  · exact .inl ⟨rfl, rfl⟩
  · exact .inr ⟨_, rfl, rfl⟩

/-- On the same operands a command word ends the same way (R16). -/
theorem executeCommand_congr {s t : State} (h : sameOperands s t) (c : Word) :
    (∃ e, executeCommand c s = .next (raise e s) ∧ executeCommand c t = .next (raise e t)) ∨
      ∃ r, executeCommand c s = .next (complete r s) ∧ executeCommand c t = .next (complete r t) := by
  unfold executeCommand
  cases decode c with
  | ok i => exact (exec_congr h i).imp_left (⟨_, ·⟩)
  | error e => exact .inl ⟨e, rfl, rfl⟩

/-- A command leaves the operands as they were (R18 to R20). -/
theorem exec_sameOperands {i : Instr} {s t : State} (h : exec i s = .next t) : sameOperands t s := by
  rcases exec_next h with rfl | rfl <;> exact ⟨rfl, rfl, rfl, rfl, rfl, rfl⟩

theorem errOf_errorStatus_ne_zero (e : CmdError) : errOf (errorStatus e) ≠ 0 := by
  cases e <;> decide

/-- DLC among a command's results: 8 for an encoder, 0 for every other (R24, R82). -/
theorem resultsOf_dlc (i : Instr) (s : State) :
    (resultsOf s i).dlc = if isEncoder i then 8#4 else 0#4 := by
  cases i <;> rfl

/-! ### The results of a command keep to their registers -/

/-- An ARB value with its reserved bits 0 and, for a standard frame, an identifier of 11 bits (R23). -/
def arbFits (w : Word) : Prop :=
  w &&& 0x60000000#32 = 0#32 ∧ (w.getLsbD 31 = false → w.toNat < 0x800)

theorem arbFits_zero : arbFits 0#32 := ⟨by decide, by decide⟩

theorem getLsbD_arbWord (ide : Bool) (id : BitVec 29) (j : Nat) (hj : j < 32) :
    (arbWord ide id).getLsbD j = if j < 29 then id.getLsbD j else ide && decide (j = 31) := by
  simp only [arbWord, BitVec.getLsbD_append]
  split
  · rfl
  · interval_cases j <;> simp_all

/-- `arbWord` leaves ARB[30:29] 0 (R23). -/
theorem arbWord_reserved (ide : Bool) (id : BitVec 29) : arbWord ide id &&& 0x60000000#32 = 0#32 := by
  apply BitVec.eq_of_getLsbD_eq
  intro j hj
  rw [BitVec.getLsbD_and, getLsbD_arbWord _ _ _ hj]
  interval_cases j <;> simp

theorem arbWord_standard_toNat (id : BitVec 29) : (arbWord false id).toNat = id.toNat := by
  have happ : (arbWord false id).toNat = (BitVec.ofBool false ++ 0#2).toNat <<< 29 ||| id.toNat :=
    BitVec.toNat_append _ _
  simp [happ]

/-- A standard frame with an 11-bit identifier (R23). -/
theorem arbFits_standard {id : BitVec 29} (h : id.toNat < 0x800) : arbFits (arbWord false id) :=
  ⟨arbWord_reserved _ _, fun _ => by rwa [arbWord_standard_toNat]⟩

/-- An extended frame, whatever its identifier (R23). -/
theorem arbFits_extended (id : BitVec 29) : arbFits (arbWord true id) :=
  ⟨arbWord_reserved _ _, fun h => by
    rw [getLsbD_arbWord _ _ _ (by decide)] at h
    simp at h⟩

theorem midId_lt (mid : Byte) : (midId mid).toNat < 0x800 := by
  have h := mid.isLt
  simp [midId]
  omega

/-- SATk and NANk are never both set (R26). -/
def Flags.satNanExclusive (f : Flags) : Prop :=
  ¬(f.sat0 = true ∧ f.nan0 = true) ∧ ¬(f.sat1 = true ∧ f.nan1 = true) ∧ ¬(f.sat2 = true ∧ f.nan2 = true)

/-- What a command may write: an ARB and a DLC of R23 and R24, and flags of R26. -/
structure Results.Fits (r : Results) : Prop where
  arb_fits : arbFits r.arb
  dlc_length : r.dlc = 0#4 ∨ r.dlc = 8#4
  flags_exclusive : r.flags.satNanExclusive

theorem resultsOf_dlc_length (i : Instr) (s : State) :
    (resultsOf s i).dlc = 0#4 ∨ (resultsOf s i).dlc = 8#4 := by
  rw [resultsOf_dlc]
  split
  · exact .inr rfl
  · exact .inl rfl

/-- A stream frame's two identifiers are standard; so is a motor's; the ping's is extended (R86). -/
theorem resultsOf_arb_fits (i : Instr) (s : State) : arbFits (resultsOf s i).arb := by
  cases i
  case enc90f | enc90r | encAdf | encAdr => exact arbFits_standard (by decide)
  case encMode | encRegw => exact arbFits_standard (midId_lt _)
  case encPing => exact arbFits_extended _
  all_goals exact arbFits_zero

/-- One operand never sets both its SAT and its NAN flag (R26). -/
def StreamField.satNanExclusive (p : StreamField) : Prop := ¬(p.sat = true ∧ p.nan = true)

theorem floatField_exclusive (b : Word) (qty : Qty) : (floatField b qty).satNanExclusive :=
  sat16_flags b qty

theorem rawField_exclusive (b : Word) : (rawField b).satNanExclusive := by
  simp [StreamField.satNanExclusive, rawField]

theorem positionField_exclusive (vo : Bool) {p : StreamField} (h : p.satNanExclusive) :
    (positionField vo p).satNanExclusive := by
  cases vo
  · exact h
  · simp [StreamField.satNanExclusive, positionField]

/-- A stream frame's flags are those of its three fields (R26). -/
theorem streamResults_exclusive {id : BitVec 29} {p v f : StreamField} (hp : p.satNanExclusive)
    (hv : v.satNanExclusive) (hf : f.satNanExclusive) :
    (streamResults id p v f).flags.satNanExclusive :=
  ⟨hp, hv, hf⟩

/-- Flags without saturation are exclusive. -/
theorem Flags.satNanExclusive_of_no_sat {f : Flags} (h0 : f.sat0 = false) (h1 : f.sat1 = false)
    (h2 : f.sat2 = false) : f.satNanExclusive := by
  simp [Flags.satNanExclusive, h0, h1, h2]

theorem resultsOf_flags_exclusive (i : Instr) (s : State) : (resultsOf s i).flags.satNanExclusive := by
  cases i
  case scalePos | scaleVel | scaleAcc | scaleTqe =>
    exact ⟨sat16_flags s.opa _, fun h => Bool.noConfusion h.1, fun h => Bool.noConfusion h.1⟩
  case enc90f vo | encAdf vo =>
    exact streamResults_exclusive (positionField_exclusive vo (floatField_exclusive _ _))
      (floatField_exclusive _ _) (floatField_exclusive _ _)
  case enc90r vo | encAdr vo =>
    exact streamResults_exclusive (positionField_exclusive vo (rawField_exclusive _))
      (rawField_exclusive _) (rawField_exclusive _)
  all_goals exact Flags.satNanExclusive_of_no_sat rfl rfl rfl

theorem resultsOf_fits (i : Instr) (s : State) : (resultsOf s i).Fits :=
  ⟨resultsOf_arb_fits i s, resultsOf_dlc_length i s, resultsOf_flags_exclusive i s⟩

/-! ### The bits of STATUS -/

/-- The bits of a completed command's STATUS are DONE and the flags at their places (R25). -/
theorem getLsbD_completedStatus (f : Flags) (j : Nat) (hj : j < 32) :
    (completedStatus f).getLsbD j =
      (decide (j = 31) || (f.sat0 && decide (j = 0) || f.sat1 && decide (j = 1) || f.sat2 && decide (j = 2) ||
        f.nan0 && decide (j = 4) || f.nan1 && decide (j = 5) || f.nan2 && decide (j = 6) ||
        f.sent && decide (j = 8) || f.padOk && decide (j = 9) || f.len8 && decide (j = 10) ||
        f.nameV && decide (j = 12) || f.hwV && decide (j = 13))) := by
  have hdone : doneBit.getLsbD j = decide (j = 31) := by
    revert j
    decide
  simp only [completedStatus, Flags.toWord, BitVec.getLsbD_or, getLsbD_flagBit _ _ _ hj, hdone]

/-- A completed command writes no reserved bit of STATUS (R25). -/
theorem completedStatus_reserved (f : Flags) : completedStatus f &&& 0x7FF0C888#32 = 0#32 := by
  apply BitVec.eq_of_getLsbD_eq
  intro j hj
  rw [BitVec.getLsbD_and, getLsbD_completedStatus f j hj]
  interval_cases j <;> simp

/-- SATk is bit k and NANk bit k + 4, so exclusive flags give exclusive bits (R25, R26). -/
theorem completedStatus_exclusive {f : Flags} (h : f.satNanExclusive) (k : Fin 3) :
    ¬((completedStatus f).getLsbD k.val = true ∧ (completedStatus f).getLsbD (k.val + 4) = true) := by
  obtain ⟨h0, h1, h2⟩ := h
  rw [getLsbD_completedStatus _ _ (by omega), getLsbD_completedStatus _ _ (by omega)]
  fin_cases k
  · simpa using h0
  · simpa using h1
  · simpa using h2

/-- An error writes no reserved bit of STATUS (R25). -/
theorem errorStatus_reserved (e : CmdError) : errorStatus e &&& 0x7FF0C888#32 = 0#32 := by
  cases e <;> decide

/-- An error leaves every flag 0 (R101). -/
theorem errorStatus_no_flag (e : CmdError) : errorStatus e &&& 0x00003777#32 = 0#32 := by
  cases e <;> decide

theorem errorStatus_exclusive (e : CmdError) (k : Fin 3) :
    ¬((errorStatus e).getLsbD k.val = true ∧ (errorStatus e).getLsbD (k.val + 4) = true) := by
  revert k
  cases e <;> decide

/-- No error has a code above 0x3 (R97). -/
theorem errorCode_le (e : CmdError) : errorCode e ≤ 3 := by cases e <;> decide

/-- A STATUS with DONE set is not 0 (R29). -/
theorem ne_zero_of_done {w : Word} (h : w.getLsbD 31 = true) : w ≠ 0#32 := by
  rintro rfl
  exact absurd h (by decide)

/-! ### The registers' invariant -/

theorem sameResults_refl (s : State) : sameResults s s :=
  ⟨rfl, rfl, rfl, rfl, rfl, rfl, rfl⟩

/-- The invariant speaks of PLEN, STATUS and the results alone. -/
theorem State.RegInv.of_same {s t : State} (hs : s.RegInv) (hplen : t.plen = s.plen)
    (hstatus : t.status = s.status) (hres : sameResults t s) : t.RegInv := by
  obtain ⟨h0, h1, h2, h3, h4, harb, hdlc⟩ := hres
  constructor <;> simp only [hplen, hstatus, h0, h1, h2, h3, h4, harb, hdlc]
  exacts [hs.plen_reserved, hs.arb_reserved, hs.arb_standard, hs.dlc_length, hs.status_reserved,
    hs.error_code, hs.error_no_flag, hs.sat_nan, hs.not_done, hs.results_at_reset]

/-- All registers at 0 meet the invariant (R34). -/
theorem regInv_of_allRegistersZero {s : State} (h : allRegistersZero s) : s.RegInv := by
  obtain ⟨-, -, -, -, -, -, hplen, h0, h1, h2, h3, h4, harb, hdlc, hstatus⟩ := h
  constructor <;> simp only [hplen, h0, h1, h2, h3, h4, harb, hdlc, hstatus] <;> decide

/-- Storing PLEN keeps the invariant: bits [31:4] are stored as 0 (R20). -/
theorem regInv_store_plen {s : State} (hs : s.RegInv) (v : Word) :
    ({ s with plen := plenStored v } : State).RegInv where
  plen_reserved := by
    rw [plenStored_eq, BitVec.and_assoc]
    exact BitVec.and_zero
  __ := hs

/-- A command error keeps the invariant: it writes DONE and a code of at most 3, and no flag (R101). -/
theorem regInv_raise {s : State} (hs : s.RegInv) (e : CmdError) : (raise e s).RegInv where
  __ := hs
  status_reserved := errorStatus_reserved e
  error_code := by
    rw [raise_status, errOf_errorStatus]
    exact errorCode_le e
  error_no_flag _ := errorStatus_no_flag e
  sat_nan := errorStatus_exclusive e
  not_done h := by
    rw [raise_status, errorStatus_done] at h
    cases h
  results_at_reset h := absurd h (ne_zero_of_done (errorStatus_done e))

/-- A completing command keeps the invariant when its results fit their registers (R56). -/
theorem regInv_complete {s : State} (hs : s.RegInv) {r : Results} (hr : r.Fits) :
    (complete r s).RegInv where
  plen_reserved := hs.plen_reserved
  arb_reserved := hr.arb_fits.1
  arb_standard := hr.arb_fits.2
  dlc_length := hr.dlc_length.imp (congrArg (BitVec.setWidth 32)) (congrArg (BitVec.setWidth 32))
  status_reserved := completedStatus_reserved r.flags
  error_code := by simp [errOf_completedStatus]
  error_no_flag h := absurd (errOf_completedStatus r.flags) h
  sat_nan := completedStatus_exclusive hr.flags_exclusive
  not_done h := by
    rw [complete_status, completedStatus_done] at h
    cases h
  results_at_reset h := absurd h (ne_zero_of_done (completedStatus_done r.flags))

/-- Executing any value of CMD keeps the invariant. -/
theorem regInv_executeCommand {c : Word} {s t : State} (h : executeCommand c s = .next t)
    (hs : s.RegInv) : t.RegInv := by
  rcases executeCommand_next h with ⟨e, rfl⟩ | ⟨i, rfl⟩
  · exact regInv_raise hs e
  · exact regInv_complete hs (resultsOf_fits i s)

/-- A host write keeps the invariant, whatever it writes and wherever. -/
theorem regInv_hostWrite {o : BitVec 8} {v : Word} {s t : State} (h : hostWrite o v s = .next t)
    (hs : s.RegInv) : t.RegInv := by
  rcases hostWrite_cases h with ⟨-, hc⟩ | rfl | rfl | rfl | rfl | rfl | rfl | rfl
  · exact regInv_executeCommand hc (hs.of_same rfl rfl (sameResults_refl s))
  any_goals exact hs.of_same rfl rfl (sameResults_refl _)
  · exact regInv_store_plen hs v

theorem allRegistersZero_reset : allRegistersZero State.reset := by
  simp [allRegistersZero, State.reset]

theorem allRegistersZero_resetRegisters (s : State) : allRegistersZero (resetRegisters s) := by
  simp [allRegistersZero]

/-- A reset during an access leaves no register but 0 either (R117). -/
theorem allRegistersZero_resetDuringAccess (a : Access) (s : State) :
    allRegistersZero (resetDuringAccess a s) := by
  unfold resetDuringAccess
  split <;> exact allRegistersZero_resetRegisters s

/-- An event at the port keeps the invariant. -/
theorem regInv_takeEvent {e : PortEvent} {s t : State} (h : takeEvent e s = .next t)
    (hs : s.RegInv) : t.RegInv := by
  rcases takeEvent_cases h with ⟨a, -, -, rfl⟩ | ⟨a, v, -, -, -, hw⟩ | ⟨-, rfl⟩ | ⟨a, -, rfl⟩
  · exact hs.of_same rfl rfl (sameResults_refl s)
  · exact regInv_hostWrite hw (hs.of_same rfl rfl (sameResults_refl s))
  · exact regInv_of_allRegistersZero (allRegistersZero_resetRegisters s)
  · exact regInv_of_allRegistersZero (allRegistersZero_resetDuringAccess a s)

/-- Settles O28, event by event: an access writes results that fit their registers or an error's STATUS,
and a reset zeroes every register. -/
theorem stepKeepsRegisterInvariant : Obligations.StepKeepsRegisterInvariant := by
  intro s t hs h
  rcases step_cases h with ⟨-, rfl⟩ | ⟨e, rest, -, he⟩
  · exact hs
  · exact regInv_takeEvent he (hs.of_same rfl rfl (sameResults_refl s))

/-- Settles O27: the reset state has every register at 0. -/
theorem registerInvariantAtReset : Obligations.RegisterInvariantAtReset :=
  regInv_of_allRegistersZero allRegistersZero_reset

/-! ### Statements about the port -/

/-- Settles O16: the write stores `v`, even where a command runs after it, and the read finds it. -/
theorem writtenRegistersReadBack : Obligations.WrittenRegistersReadBack := by
  intro s r v rest hr hport
  obtain ⟨t, hw, hv, htport⟩ :=
    hostWrite_stores hr v { s with port := rd r :: rest, response := .writeDone }
  refine ⟨t, _, (step_write hport (offset_aligned r)).trans hw, step_read htport (offset_aligned r), rfl, ?_⟩
  exact congrArg Response.readData ((hostRead_full (definedBits_full hr) t).trans hv)

/-- Settles O9: an offset names a register, whose defined bits are read, or none. -/
theorem readsReturnRegistersUnchanged : Obligations.ReadsReturnRegistersUnchanged := by
  intro s o rest hport ho
  rw [step_read hport ho]
  congr 3
  cases hr : regAt o with
  | some r =>
    obtain rfl := regAt_eq_some.mp hr
    rw [hostRead_offset]
    cases r <;> simp [readReg, definedBits, Reg.offset, and_fullMask]
  | none =>
    rw [hostRead_reserved hr]
    have hne := regAt_eq_none.mp hr
    simp only [List.mem_cons, List.not_mem_nil, not_or, not_false_eq_true, and_true] at hne
    simp [hne]

/-- Settles O10: each clause is one row of `hostWrite`. -/
theorem operandWritesStoreTheirValue : Obligations.OperandWritesStoreTheirValue := by
  intro s o v rest hport
  refine ⟨?_, ?_, ?_, ?_, ?_, ?_⟩
  case refine_6 =>
    rintro rfl
    rw [step_write hport rfl, ← plenStored_eq]
    rfl
  all_goals
    rintro rfl
    exact step_write hport rfl

/-- Settles O11: `hostWrite` keeps the state at a RO offset. -/
theorem readOnlyRegistersIgnoreWrites : Obligations.ReadOnlyRegistersIgnoreWrites := by
  intro s o v rest hport ho
  have haligned : o.toNat % 4 = 0 := by
    clear hport
    revert o
    decide
  exact ⟨_, (step_write hport haligned).trans (hostWrite_readOnly ho v _), rfl⟩

/-- Settles O12: a reserved offset names no register. -/
theorem reservedOffsetsReadZeroIgnoreWrites : Obligations.ReservedOffsetsReadZeroIgnoreWrites := by
  intro s o rest haligned ho
  have hnone : regAt o = none := regAt_reserved ho
  refine ⟨fun hport => ?_, fun v hport => ?_⟩
  · rw [step_read hport haligned, hostRead_reserved hnone]
  · rw [step_write hport haligned, hostWrite_reserved hnone]

/-- Settles O17: `resetRegisters` zeroes every register and keeps the port. -/
theorem resetZeroesEveryRegister : Obligations.ResetZeroesEveryRegister :=
  ⟨allRegistersZero_reset, fun _ _ hport =>
    ⟨_, step_of_port hport, allRegistersZero_resetRegisters _, rfl⟩⟩

/-! ### Statements about every command -/

/-- Settles O20: raising an error and completing are the only two ends of a command. -/
theorem commandsLeaveOperandsAlone : Obligations.CommandsLeaveOperandsAlone := by
  intro i s t h
  refine ⟨exec_sameOperands h, ?_⟩
  rcases exec_next h with rfl | rfl <;> exact ⟨rfl, rfl, rfl, rfl⟩

/-- Settles O21: both ends of a command write DONE. -/
theorem everyCommandSetsDone : Obligations.EveryCommandSetsDone := by
  refine ⟨rfl, fun s c rest hport => ?_, fun s hs => ?_, fun s hstatus => ?_⟩
  · rw [step_command hport]
    rcases executeCommand_cases c { s with port := rest, response := .writeDone, cmd := c }
      with ⟨r, h⟩ | ⟨e, h⟩
    · exact ⟨_, h, completedStatus_done r.flags⟩
    · exact ⟨_, h, errorStatus_done e⟩
  · exact ⟨fun h => by rw [h]; rfl, hs.not_done⟩
  · rw [hstatus]
    decide

/-- Settles O23: on the same operands a command word raises the same error or writes the same results. -/
theorem resultsDependOnlyOnOperands : Obligations.ResultsDependOnlyOnOperands := by
  intro s t c ps pt hs ht hsame
  have hsame' : sameOperands { s with port := ps, response := .writeDone, cmd := c }
    { t with port := pt, response := .writeDone, cmd := c } := hsame
  rw [step_command hs, step_command ht]
  rcases executeCommand_congr hsame' c with ⟨e, hes, het⟩ | ⟨r, hrs, hrt⟩
  · exact ⟨_, _, hes, het, rfl, rfl, fun h => absurd h (errOf_errorStatus_ne_zero e)⟩
  · exact ⟨_, _, hrs, hrt, rfl, rfl, fun _ => ⟨rfl, rfl, rfl, rfl, rfl, rfl, rfl⟩⟩

/-- Settles O24: a command leaves its operands as they were, so the second run ends like the first, and
writing the same error or the same results again changes nothing. -/
theorem repeatedCommandChangesNothing : Obligations.RepeatedCommandChangesNothing := by
  intro i s t h
  rcases exec_congr (exec_sameOperands h) i with ⟨ht, hs⟩ | ⟨r, ht, hs⟩
  · obtain rfl : raise .badLen s = t := by simpa using hs.symm.trans h
    exact ht
  · obtain rfl : complete r s = t := by simpa using hs.symm.trans h
    exact ht

/-- Settles O26: an error has a nonzero code, so the command completed with its own DLC. -/
theorem completedCommandsWriteDlc : Obligations.CompletedCommandsWriteDlc := by
  intro i s t h herr
  rcases exec_next h with rfl | rfl
  · exact absurd herr (errOf_errorStatus_ne_zero _)
  · rw [complete_dlc, resultsOf_dlc]
    split <;> rfl

end Sys2Proof.Machine

end

/-! Proofs for the memory family: which accesses the port takes, and what an access that runs no command
keeps. -/

section

namespace Sys2Proof.Machine

/-! ### Accesses the port refuses -/

/-- A refused access gives no next state (R104). -/
theorem step_refused {s : State} {a : Access} {rest : List PortEvent} {r : Refusal}
    (hport : s.port = .access a :: rest) (hr : accessRefusal a = some r) : step s = .refused r := by
  rw [step_of_port hport]
  simp [takeEvent, hr]

/-- The window decodes no address outside it, whatever the width and kind (I4). -/
theorem accessRefusal_outside (a w : Nat) (k : AccessKind) :
    accessRefusal ⟨.outside a, w, k⟩ = some .outsideWindow := rfl

/-- In the window the width is looked at before the offset (R42, I2; log entry 12). -/
theorem accessRefusal_narrow {w : Nat} (hw : w ≠ 32) (o : BitVec 8) (k : AccessKind) :
    accessRefusal ⟨.window o, w, k⟩ = some .undefinedWidth := by
  simp [accessRefusal, Access.inWindow, Access.isWord, hw]

/-- A word access of the window needs an offset that is a multiple of 4 (R42, I3). -/
theorem accessRefusal_misaligned {o : BitVec 8} (ho : o.toNat % 4 ≠ 0) (k : AccessKind) :
    accessRefusal ⟨.window o, 32, k⟩ = some .misaligned := by
  simp [accessRefusal, Access.inWindow, Access.isWord, Access.aligned, ho]

/-! ### Accesses that run no command -/

/-- The registers only a command or a reset writes hold the same in both states (R44). -/
def commandRegistersKept (s t : State) : Prop :=
  t.cmd = s.cmd ∧ t.status = s.status ∧ sameResults t s

/-- An access the port takes lies in the window, at its offset. -/
theorem Access.target_of_wellFormed {a : Access} (ha : a.wellFormed = true) :
    a.target = .window (accessOffset a) := by
  obtain ⟨target, width, kind⟩ := a
  cases target with
  | window o => rfl
  | outside addr => cases ha

/-- A write to any offset but CMD's runs no command (R44). -/
theorem hostWrite_commandRegistersKept {o : BitVec 8} {v : Word} {s t : State} (ho : o ≠ 0x00#8)
    (h : hostWrite o v s = .next t) : commandRegistersKept s t := by
  rcases hostWrite_cases h with ⟨hcmd, -⟩ | rfl | rfl | rfl | rfl | rfl | rfl | rfl
  · exact absurd hcmd ho
  all_goals exact ⟨rfl, rfl, sameResults_refl _⟩

/-- An access the port takes, other than a write to CMD, runs no command (R44). -/
theorem takeEvent_access_commandRegistersKept {a : Access} {s t : State}
    (h : takeEvent (.access a) s = .next t)
    (ha : ¬(a.target = .window 0x00#8 ∧ ∃ c, a.kind = .write c)) : commandRegistersKept s t := by
  rcases takeEvent_cases h with ⟨_, -, -, rfl⟩ | ⟨_, v, ⟨⟩, hwf, hkind, hw⟩ | ⟨⟨⟩, -⟩ | ⟨_, ⟨⟩, -⟩
  · exact ⟨rfl, rfl, sameResults_refl s⟩
  · have ho : accessOffset a ≠ 0x00#8 := fun ho =>
      ha ⟨ho ▸ Access.target_of_wellFormed hwf, v, hkind⟩
    exact (hostWrite_commandRegistersKept ho hw :)

/-! ### Statements about accesses -/

/-- Settles O19: a read answers a value, and only a write at CMD's offset runs a command. -/
theorem onlyCommandWritesAndResetChangeResults : Obligations.OnlyCommandWritesAndResetChangeResults := by
  refine fun s => ⟨fun t a rest hport hstep ha => ?_, step_of_empty_port⟩
  rw [step_of_port hport] at hstep
  exact (takeEvent_access_commandRegistersKept hstep ha :)

/-- Settles O5: `Execute(c)` on a word the decoder accepts is `exec` of its command. -/
theorem stepRunsDecodedCommand : Obligations.StepRunsDecodedCommand := by
  intro s c rest i hport hdecode _
  rw [step_command hport, executeCommand, hdecode]

/-- Settles O13: the port refuses an access of a wrong width by its width, a word access by its offset. -/
theorem narrowOrMisalignedAccessesAreRefused : Obligations.NarrowOrMisalignedAccessesAreRefused := by
  refine fun s o w k rest hport => ⟨fun hw => ?_, ?_⟩
  · exact step_refused hport (accessRefusal_narrow hw o k)
  · rintro rfl ho
    exact step_refused hport (accessRefusal_misaligned ho k)

/-- Settles O14: the first check of `accessRefusal` is the window. -/
theorem accessesOutsideTheWindowAreRefused : Obligations.AccessesOutsideTheWindowAreRefused :=
  fun _ a w k _ hport => step_refused hport (accessRefusal_outside a w k)

end Sys2Proof.Machine

end

/-! Proofs for the encoding family: the round trips of the CMD word, the errors of the decoder, what a
failed command keeps, and the results of the SCALE and decoder commands. -/

section

namespace Sys2Proof

open Machine Laws

/-! ### The layout of the CMD word -/

/-- CMD bits [15:9], which no command uses (R52). -/
def reservedField (c : Word) : BitVec 7 := c.extractLsb' 9 7

/-- A CMD word put together from its fields (R52). -/
def cmdWord (mid imm8 : Byte) (reserved : BitVec 7) (ft raw vo : Bool) (qty : BitVec 2) (op : BitVec 4) : Word :=
  mid ++ imm8 ++ (reserved ++ BitVec.ofBool ft ++ BitVec.ofBool raw ++ BitVec.ofBool vo ++ qty ++ op : Half)

/-- A word is its fields put together (R52). -/
theorem cmdWord_fields (c : Word) :
    cmdWord (midField c) (imm8Field c) (reservedField c) (ftBit c) (rawBit c) (voBit c) (qtyField c)
      (opField c) = c := by
  apply BitVec.eq_of_getLsbD_eq
  intro j hj
  simp only [cmdWord, midField, imm8Field, reservedField, ftBit, rawBit, voBit, qtyField, opField,
    BitVec.getLsbD_append, BitVec.getLsbD_extractLsb', BitVec.getLsbD_ofBool]
  interval_cases j <;> simp

/-- A word is known by its fields. -/
theorem cmdWord_eq {c : Word} {mid imm8 : Byte} {reserved : BitVec 7} {ft raw vo : Bool} {qty : BitVec 2}
    {op : BitVec 4} (hmid : midField c = mid) (himm8 : imm8Field c = imm8)
    (hreserved : reservedField c = reserved) (hft : ftBit c = ft) (hraw : rawBit c = raw)
    (hvo : voBit c = vo) (hqty : qtyField c = qty) (hop : opField c = op) :
    cmdWord mid imm8 reserved ft raw vo qty op = c := by
  subst hmid himm8 hreserved hft hraw hvo hqty hop
  exact cmdWord_fields c

theorem midField_append (mid imm8 : Byte) (x : Half) : midField (mid ++ imm8 ++ x) = mid :=
  (BitVec.extractLsb'_append_eq_of_le (by decide)).trans BitVec.extractLsb'_append_eq_left

theorem imm8Field_append (mid imm8 : Byte) (x : Half) : imm8Field (mid ++ imm8 ++ x) = imm8 :=
  (BitVec.extractLsb'_append_eq_of_le (by decide)).trans BitVec.extractLsb'_append_eq_right

/-- The ping's 24 fixed bits are IMM8 = 0 above the low half (R93). -/
theorem encode_encPing (mid : Byte) : encode (.encPing mid) = mid ++ 0x00#8 ++ 0x0006#16 :=
  (BitVec.append_assoc (x₁ := mid) (x₂ := 0x00#8) (x₃ := 0x0006#16)).symm

/-! ### The decoder's two answers -/

/-- The words the decoder accepts, and as which command (R55, R56). -/
theorem decode_eq_ok {c : Word} {i : Instr} :
    decode c = .ok i ↔ (c.toNat % 16 ≠ 0 ∧ c.toNat % 16 < 9) ∧
      c &&& mustBeZero (c.toNat % 16) = 0#32 ∧ selected c = i := by
  rw [decode_eq]
  split_ifs with hop
  · rw [iff_false_left (by simp)]
    omega
  · rw [checkZero_eq_ok, and_iff_right (by omega : c.toNat % 16 ≠ 0 ∧ c.toNat % 16 < 9)]

/-- Settles O4: ILLEGAL_OP is the decoder's own answer, RSV_FIELD the answer of `checkZero` on a defined
OP, and neither answers BAD_LEN. -/
theorem decodeErrorsAreIllegalOpAndReservedField :
    Obligations.DecodeErrorsAreIllegalOpAndReservedField := by
  intro c
  rw [decode_eq]
  split_ifs with hop
  · refine ⟨iff_of_true rfl hop, iff_of_false (by simp) ?_, by simp⟩
    rintro ⟨h1, h8, -⟩
    omega
  · have hdefined : 1 ≤ c.toNat % 16 ∧ c.toNat % 16 ≤ 8 := by omega
    refine ⟨iff_of_false (by simp [checkZero_eq_error]) hop, ?_, by simp [checkZero_eq_error]⟩
    rw [checkZero_eq_error, and_iff_left rfl, ← and_assoc, and_iff_right hdefined]

/-! ### Decoding what was encoded -/

/-- A command's word has the fixed bits of its row (spec/opcode_table.json). -/
theorem encode_and_rowMask (i : Instr) : encode i &&& rowMask i = rowMatch i := by
  cases i with
  | enc90f vo => exact (EncodingFits.enc90f vo).2
  | enc90r vo => exact (EncodingFits.enc90r vo).2
  | encAdf vo => exact (EncodingFits.encAdf vo).2
  | encAdr vo => exact (EncodingFits.encAdr vo).2
  | encMode mode mid => exact (EncodingFits.encMode mode mid).2
  | encRegw addr mid => exact (EncodingFits.encRegw addr mid).2
  | encPing mid => exact (EncodingFits.encPing mid).2
  | _ => rfl

/-- Under a mask of fixed bits only, a command's word shows its row's value. -/
theorem encode_and {i : Instr} {m : Word} (hm : rowMask i &&& m = m) :
    encode i &&& m = rowMatch i &&& m := by
  calc encode i &&& m = encode i &&& rowMask i &&& m := by rw [BitVec.and_assoc, hm]
    _ = rowMatch i &&& m := by rw [encode_and_rowMask]

/-- The low four bits of a word are its OP (R17). -/
theorem toNat_and_opMask (c : Word) : (c &&& 0x0000000F#32).toNat = c.toNat % 16 := by
  rw [BitVec.toNat_and]
  exact Nat.and_two_pow_sub_one_eq_mod c.toNat 4

/-- OP is among the fixed bits of every row. -/
theorem encode_op (i : Instr) : (encode i).toNat % 16 = (rowMatch i).toNat % 16 := by
  have hfixed : rowMask i &&& 0x0000000F#32 = 0x0000000F#32 := by cases i <;> simp [rowMask]
  rw [← toNat_and_opMask, ← toNat_and_opMask, encode_and hfixed]

/-- Every command has a defined OP (R54). -/
theorem rowMatch_op_defined (i : Instr) :
    (rowMatch i).toNat % 16 ≠ 0 ∧ (rowMatch i).toNat % 16 < 9 := by
  cases i <;> simp [rowMatch]

/-- The must-be-zero bits of a command's OP are among its row's fixed bits, and 0 there (R55). -/
theorem encode_mustBeZero (i : Instr) : encode i &&& mustBeZero ((rowMatch i).toNat % 16) = 0#32 := by
  have hfixed : rowMask i &&& mustBeZero ((rowMatch i).toNat % 16) =
      mustBeZero ((rowMatch i).toNat % 16) := by
    cases i <;> simp [rowMask, rowMatch, mustBeZero]
  rw [encode_and hfixed]
  cases i <;> simp [rowMatch, mustBeZero]

/-- The fields of a command's word select the command. -/
theorem selected_encode (i : Instr) : selected (encode i) = i := by
  unfold selected
  rw [encode_op]
  cases i with
  | enc90f vo | enc90r vo | encAdf vo | encAdr vo => cases vo <;> rfl
  | encMode mode mid => exact congrArg₂ Instr.encMode (imm8Field_append _ _ _) (midField_append _ _ _)
  | encRegw addr mid => exact congrArg₂ Instr.encRegw (imm8Field_append _ _ _) (midField_append _ _ _)
  | encPing mid => exact congrArg Instr.encPing (encode_encPing mid ▸ midField_append _ _ _)
  | _ => rfl

/-- A command's word has a defined OP, no must-be-zero bit, and fields that select the command. -/
theorem decode_encode (i : Instr) : decode (encode i) = .ok i := by
  rw [decode_eq_ok, encode_op]
  exact ⟨rowMatch_op_defined i, encode_mustBeZero i, selected_encode i⟩

/-- Settles O1: `decode_encode` holds of every command, and every command is well formed. -/
theorem decodeOfEncodeIsIdentity : Obligations.DecodeOfEncodeIsIdentity :=
  fun i _ => decode_encode i

/-- Settles O3: each word is, bit for bit, the encoding of its command. -/
theorem decodeReadsWrittenWords : Obligations.DecodeReadsWrittenWords :=
  ⟨decode_encode .scaleVel, decode_encode .descaleTqe, decode_encode (.enc90f true),
    decode_encode (.enc90r false), decode_encode (.encAdf true), decode_encode (.encAdr false),
    decode_encode (.encMode 0x0A#8 0x01#8), decode_encode (.encRegw 0x21#8 0xFE#8),
    decode_encode (.encPing 0x05#8), decode_encode .decStream, decode_encode .decDisc⟩

/-! ### Encoding what was decoded -/

section Masked

variable {c z : Word}

/-- A field all of whose bits must be zero is 0 in an accepted word (R55). -/
theorem field_eq_zero {start len : Nat} (hz : c &&& z = 0#32)
    (hmask : z.extractLsb' start len = BitVec.allOnes len) : c.extractLsb' start len = 0#len := by
  rw [← BitVec.and_allOnes (x := c.extractLsb' start len), ← hmask, ← BitVec.extractLsb'_and, hz,
    BitVec.extractLsb'_zero]

/-- A bit that must be zero is 0 in an accepted word (R55). -/
theorem bit_eq_false {j : Nat} (hz : c &&& z = 0#32) (hmask : z.getLsbD j = true) : c.getLsbD j = false := by
  have hbit : (c &&& z).getLsbD j = false := by rw [hz, BitVec.getLsbD_zero]
  rwa [BitVec.getLsbD_and, hmask, Bool.and_true] at hbit

/-- An accepted word whose OP is not ENC_STREAM's has bits [15:6] 0: it is its MID, IMM8, QTY and OP (R55). -/
theorem cmdWord_eq_of_not_stream {mid imm8 : Byte} {qty : BitVec 2} {op : BitVec 4} (hz : c &&& z = 0#32)
    (hmask : z &&& 0x0000FFC0#32 = 0x0000FFC0#32) (hmid : midField c = mid) (himm8 : imm8Field c = imm8)
    (hqty : qtyField c = qty) (hop : opField c = op) :
    cmdWord mid imm8 0#7 false false false qty op = c := by
  have hmiddle : c &&& 0x0000FFC0#32 = 0#32 := by
    rw [← hmask, ← BitVec.and_assoc, hz, BitVec.zero_and]
  exact cmdWord_eq hmid himm8 (field_eq_zero hmiddle rfl) (bit_eq_false hmiddle rfl)
    (bit_eq_false hmiddle rfl) (bit_eq_false hmiddle rfl) hqty hop

end Masked

/-- A SCALE word is its QTY and its OP (R60). -/
theorem encode_scaleOf_eq (c : Word) :
    encode (scaleOf c) = cmdWord 0#8 0#8 0#7 false false false (qtyField c) 1#4 := by
  unfold scaleOf
  generalize qtyField c = qty
  revert qty
  decide

/-- A DESCALE word is its QTY and its OP (R60). -/
theorem encode_descaleOf_eq (c : Word) :
    encode (descaleOf c) = cmdWord 0#8 0#8 0#7 false false false (qtyField c) 2#4 := by
  unfold descaleOf
  generalize qtyField c = qty
  revert qty
  decide

/-- An ENC_STREAM word is its FT, RAW, VO and OP (R60). -/
theorem encode_encStreamOf_eq (c : Word) :
    encode (encStreamOf c) = cmdWord 0#8 0#8 0#7 (ftBit c) (rawBit c) (voBit c) 0#2 3#4 := by
  unfold encStreamOf
  cases ftBit c <;> cases rawBit c <;> cases voBit c <;> rfl

/-- The command an accepted word selects has that word (R55, R58): what the command does not carry must
be zero. -/
theorem encode_selected {c : Word} (hop : c.toNat % 16 ≠ 0 ∧ c.toNat % 16 < 9)
    (hz : c &&& mustBeZero (c.toNat % 16) = 0#32) : encode (selected c) = c := by
  have hopField : opField c = BitVec.ofNat 4 (c.toNat % 16) := by
    rw [← opField_toNat, BitVec.ofNat_toNat, BitVec.setWidth_eq]
  unfold selected
  generalize c.toNat % 16 = op at hop hz hopField
  have hdefined : op = 1 ∨ op = 2 ∨ op = 3 ∨ op = 4 ∨ op = 5 ∨ op = 6 ∨ op = 7 ∨ op = 8 := by omega
  rcases hdefined with rfl | rfl | rfl | rfl | rfl | rfl | rfl | rfl
  · exact (encode_scaleOf_eq c).trans
      (cmdWord_eq_of_not_stream hz rfl (field_eq_zero hz rfl) (field_eq_zero hz rfl) rfl hopField)
  · exact (encode_descaleOf_eq c).trans
      (cmdWord_eq_of_not_stream hz rfl (field_eq_zero hz rfl) (field_eq_zero hz rfl) rfl hopField)
  · exact (encode_encStreamOf_eq c).trans (cmdWord_eq (field_eq_zero hz rfl) (field_eq_zero hz rfl)
      (field_eq_zero hz rfl) rfl rfl rfl (field_eq_zero hz rfl) hopField)
  -- the mode write and the register write: IMM8 and MID are free
  iterate 2 exact cmdWord_eq_of_not_stream hz rfl rfl rfl (field_eq_zero hz rfl) hopField
  · exact (encode_encPing (midField c)).trans
      (cmdWord_eq_of_not_stream hz rfl rfl (field_eq_zero hz rfl) (field_eq_zero hz rfl) hopField)
  -- the two decoders: no field is free
  iterate 2
    exact cmdWord_eq_of_not_stream hz rfl (field_eq_zero hz rfl) (field_eq_zero hz rfl)
      (field_eq_zero hz rfl) hopField

/-- Settles O2: the decoder accepts a word as the command it selects. -/
theorem encodeOfDecodeIsIdentity : Obligations.EncodeOfDecodeIsIdentity := by
  intro c i h
  obtain ⟨hop, hz, rfl⟩ := decode_eq_ok.mp h
  exact encode_selected hop hz

end Sys2Proof

namespace Sys2Proof.Machine

/-! ### Commands that fail -/

/-- Settles O25: a command whose STATUS has a nonzero ERR raised an error, which writes STATUS alone. -/
theorem failedCommandsKeepResults : Obligations.FailedCommandsKeepResults := by
  intro s t c rest hport hstep herr
  rw [step_command hport] at hstep
  rcases executeCommand_next hstep with ⟨e, rfl⟩ | ⟨i, rfl⟩
  · refine ⟨rfl, ?_⟩
    rw [raise_status, errOf_errorStatus]
    rfl
  · exact absurd (errOf_completedStatus _) herr

/-! ### STATUS as a number -/

theorem flagBit_eq_ofNat (i : Nat) (b : Bool) : flagBit i b = BitVec.ofNat 32 (2 ^ i * b.toNat) := by
  cases b
  · rfl
  · apply BitVec.eq_of_toNat_eq
    simp [flagBit, Nat.shiftLeft_eq]

/-- Setting a bit that is 0 adds its weight. -/
theorem or_flagBit {w : Word} {i : Nat} (hw : w.getLsbD i = false) (b : Bool) :
    w ||| flagBit i b = w + BitVec.ofNat 32 (2 ^ i * b.toNat) := by
  have hdisjoint : w &&& flagBit i b = 0#32 := by
    apply BitVec.eq_of_getLsbD_eq
    intro j hj
    rw [BitVec.getLsbD_and, getLsbD_flagBit i j b hj, BitVec.getLsbD_zero]
    by_cases hji : j = i <;> simp [hji, hw]
  rw [← BitVec.add_eq_or_of_and_eq_zero _ _ hdisjoint, flagBit_eq_ofNat]

/-- The flags as a number, each at its STATUS bit (R25). -/
def Flags.value (f : Flags) : Nat :=
  f.sat0.toNat + 2 * f.sat1.toNat + 4 * f.sat2.toNat + 16 * f.nan0.toNat + 32 * f.nan1.toNat +
    64 * f.nan2.toNat + 256 * f.sent.toNat + 512 * f.padOk.toNat + 1024 * f.len8.toNat +
    4096 * f.nameV.toNat + 8192 * f.hwV.toNat

/-- STATUS of a completed command is DONE plus the flags (R25, R56). -/
theorem completedStatus_eq_ofNat (f : Flags) :
    completedStatus f = BitVec.ofNat 32 (2 ^ 31 + f.value) := by
  simp only [completedStatus, Flags.toWord, ← BitVec.or_assoc]
  rw [or_flagBit (i := 13), or_flagBit (i := 12), or_flagBit (i := 10), or_flagBit (i := 9),
    or_flagBit (i := 8), or_flagBit (i := 6), or_flagBit (i := 5), or_flagBit (i := 4),
    or_flagBit (i := 2), or_flagBit (i := 1), or_flagBit (i := 0)]
  · simp only [Flags.value, doneBit, BitVec.ofNat_add, BitVec.add_assoc, Nat.reducePow, Nat.one_mul]
  all_goals simp [doneBit, getElem_flagBit]

theorem value_scaleFlags (sat nan : Bool) :
    ({ sat0 := sat, nan0 := nan } : Flags).value = sat.toNat + 16 * nan.toNat := by
  simp only [Flags.value, Bool.toNat_false, Nat.mul_zero, Nat.add_zero]

theorem value_streamFlags (sent padOk len8 : Bool) :
    ({ sent := sent, padOk := padOk, len8 := len8 } : Flags).value =
      256 * sent.toNat + 512 * padOk.toNat + 1024 * len8.toNat := by
  simp only [Flags.value, Bool.toNat_false, Nat.mul_zero, Nat.add_zero, Nat.zero_add]

theorem value_discFlags (nameV hwV : Bool) :
    ({ nameV := nameV, hwV := hwV } : Flags).value = 4096 * nameV.toNat + 8192 * hwV.toNat := by
  simp only [Flags.value, Bool.toNat_false, Nat.mul_zero, Nat.add_zero, Nat.zero_add]

/-! ### Commands that emit no frame -/

/-- A command that emits no frame writes RES0 to RES2 and its flags, and 0 in the other results (R57). -/
theorem complete_of_no_frame {r : Results} (hpout : r.pout = Payload.zero) (harb : r.arb = 0#32)
    (hdlc : r.dlc = 0#4) (s : State) :
    complete r s = { s with
      res0 := r.res0, res1 := r.res1, res2 := r.res2
      pout0 := 0#32, pout1 := 0#32, arb := 0#32, dlc := 0#32
      status := completedStatus r.flags } := by
  simp only [complete, hpout, harb, hdlc, lowWord_zero, highWord_zero, BitVec.setWidth_zero]

/-! ### SCALE -/

theorem qtyLo_eq_lowBound (qty : Qty) : qty.lo = lowBound qty := by cases qty <;> rfl

/-- `sat16` is R65's `Sat16` over exact rationals. -/
theorem sat16_eq_refSat16 (b : Word) (qty : Qty) : sat16 b qty = refSat16 b qty := by
  unfold refSat16 sat16
  split_ifs with hexp hfrac hsign
  · rw [f32val_of_isNaN ⟨hexp, hfrac⟩]
  · rw [f32val_of_infinite hexp (not_not.mp hfrac), decide_eq_false (not_le.mpr hsign)]
    rfl
  · rw [f32val_of_infinite hexp (not_not.mp hfrac), decide_eq_true (not_lt.mp hsign), ← qtyLo_eq_lowBound]
  · rw [f32val_of_finite hexp]
    simp only [scaledInt_eq_truncRat, ← ratOf_eq, clampScaled, qtyLo_eq_lowBound, fieldHi]

theorem qtyLo_range (qty : Qty) : -32768 ≤ qty.lo ∧ qty.lo ≤ 0 := by cases qty <;> decide

/-- The clamp lands in int16 (R65, R66). -/
theorem clampScaled_range (qty : Qty) (n : ℤ) :
    -32768 ≤ (clampScaled qty n).q ∧ (clampScaled qty n).q ≤ 32767 := by
  have hlo := qtyLo_range qty
  unfold clampScaled fieldHi
  split_ifs <;> dsimp only <;> omega

/-- `Sat16` answers an int16 (R66). -/
theorem sat16_range (b : Word) (qty : Qty) : -32768 ≤ (sat16 b qty).q ∧ (sat16 b qty).q ≤ 32767 := by
  have hlo := qtyLo_range qty
  unfold sat16
  split
  case h_4 n _ => exact clampScaled_range qty (scaledInt n qty)
  all_goals
    dsimp only [fieldHi]
    omega

/-- A SCALE command completes with the SCALE template of its quantity (40_scaler.md section 2). -/
theorem exec_scaleInstr (qty : Qty) (s : State) :
    exec (scaleInstr qty) s = .next (complete (scaleResults qty s) s) := by
  cases qty <;> exact exec_eq _ s

/-- Settles O30: RES0 and the two flags are those of `Sat16`, which answers an int16. -/
theorem scaleCommandsWriteSat16 : Obligations.ScaleCommandsWriteSat16 := by
  intro qty s
  obtain ⟨hlo, hhi⟩ := sat16_range s.opa qty
  rw [exec_scaleInstr, complete_of_no_frame rfl rfl rfl, completedStatus_eq_ofNat, scaleResults,
    value_scaleFlags, ← sat16_eq_refSat16, ← sext32_u16 hlo hhi, Nat.add_assoc]

/-! ### Bytes of the payload input -/

/-- A half determines its two bytes (R8). -/
theorem concat2_inj {a1 a0 b1 b0 : Byte} : concat2 a1 a0 = concat2 b1 b0 ↔ a1 = b1 ∧ a0 = b0 := by
  refine ⟨fun h => ⟨?_, ?_⟩, fun ⟨h1, h0⟩ => h1 ▸ h0 ▸ rfl⟩
  · simpa only [highByte, concat2, BitVec.extractLsb'_append_eq_left] using congrArg highByte h
  · simpa only [lowByte, concat2, BitVec.extractLsb'_append_eq_right] using congrArg lowByte h

/-- Two neighbouring bytes are 0x50 exactly when their 16-bit field is 0x5050 (R81, R94). -/
theorem padBytes_eq (v : Word) (i : Nat) :
    (byteOf v i == padByte && byteOf v (i + 1) == padByte) =
      decide (v.extractLsb' (8 * i) 16 = 0x5050#16) := by
  have hpad : (0x5050#16 : Half) = concat2 padByte padByte := rfl
  rw [Bool.eq_iff_iff, decide_eq_true_iff, hpad, ← concat2_byteOf, concat2_inj, Bool.and_eq_true,
    beq_iff_eq, beq_iff_eq, and_comm]

theorem byteOf_zero_toNat (v : Word) : (byteOf v 0).toNat = v.toNat % 256 := by
  rw [byteOf, BitVec.extractLsb'_toNat]
  rfl

/-- Bytes 1 to 3 of a word, moved down to bytes 0 to 2 (R96). -/
theorem concat4_upper_bytes (v : Word) : concat4 0x00#8 (byteOf v 3) (byteOf v 2) (byteOf v 1) = v >>> 8 := by
  apply BitVec.eq_of_getLsbD_eq
  intro j hj
  simp only [getLsbD_concat4, byteOf, BitVec.getLsbD_extractLsb', BitVec.getLsbD_ushiftRight]
  split_ifs
  case neg => rw [BitVec.getLsbD_zero, BitVec.getLsbD_of_ge _ _ (by omega)]
  all_goals
    exact (congrArg₂ and (decide_eq_true (by omega)) (congrArg v.getLsbD (by omega))).trans
      (Bool.true_and _)

/-! ### The decoders -/

/-- With LEN at most 8 no command raises BAD_LEN, so each completes (R100). -/
theorem exec_of_length_le {i : Instr} {s : State} (h : s.plen.toNat % 16 ≤ 8) :
    exec i s = .next (complete (resultsOf s i) s) := by
  rw [exec_eq, if_neg (fun hbad => by omega)]

/-- DEC_STREAM in terms of the 16-bit fields of PIN0 and PIN1 (R94). -/
theorem decStreamResults_eq (s : State) : decStreamResults s =
    { res0 := (s.pin0.extractLsb' 0 16).signExtend 32
      res1 := (s.pin0.extractLsb' 16 16).signExtend 32
      res2 := (s.pin1.extractLsb' 0 16).signExtend 32
      flags :=
        { sent := decide (s.pin0.extractLsb' 0 16 = 0x8000#16)
          padOk := decide (s.pin1.extractLsb' 16 16 = 0x5050#16)
          len8 := decide (s.plen.toNat % 16 = 8) } } := by
  simp only [decStreamResults, pinPayload, Payload.ofWords, sext32, sentinel, concat2_byteOf,
    padBytes_eq, pinLength_eq, Nat.reduceMul]
  rfl

/-- DEC_DISC in terms of PIN0, PIN1 and a length of at most 8 (R96). -/
theorem decDiscResults_eq {s : State} (h : s.plen.toNat % 16 ≤ 8) : decDiscResults s =
    { res0 := if 4 ≤ s.plen.toNat % 16 ∧ s.pin0.toNat % 256 = 0x51 then s.pin0 >>> 8 else 0#32
      res1 := if s.plen.toNat % 16 = 8 then s.pin1 else 0#32
      flags :=
        { nameV := decide (4 ≤ s.plen.toNat % 16 ∧ s.pin0.toNat % 256 = 0x51)
          hwV := decide (s.plen.toNat % 16 = 8) } } := by
  have hfull : 8 ≤ s.plen.toNat % 16 ↔ s.plen.toNat % 16 = 8 := by omega
  have hid : (byteOf s.pin0 0 == 0x51#8) = decide (s.pin0.toNat % 256 = 0x51) := by
    rw [← byteOf_zero_toNat, Bool.eq_iff_iff, beq_iff_eq, decide_eq_true_iff, ← BitVec.toNat_inj]
    rfl
  simp only [decDiscResults, pinPayload, Payload.ofWords, concat4_byteOf, concat4_upper_bytes,
    pinLength_eq, ge_iff_le, hfull, hid, Bool.decide_and, Bool.and_eq_true, decide_eq_true_eq]

/-- Settles O48: DEC_STREAM completes with the fields of PIN0 and PIN1. -/
theorem streamDecodeResults : Obligations.StreamDecodeResults := by
  intro s h
  rw [exec_of_length_le h, resultsOf, decStreamResults_eq, complete_of_no_frame rfl rfl rfl,
    completedStatus_eq_ofNat, value_streamFlags, ← Nat.add_assoc, ← Nat.add_assoc]

/-- Settles O49: DEC_DISC completes with the name and the version, each under its own condition. -/
theorem discoveryDecodeResults : Obligations.DiscoveryDecodeResults := by
  intro s h
  rw [exec_of_length_le h, resultsOf, decDiscResults_eq h, complete_of_no_frame rfl rfl rfl,
    completedStatus_eq_ofNat, value_discFlags, ← Nat.add_assoc]

end Sys2Proof.Machine

end

/-! Proofs for the scaler family: what `Sat16` answers for each scaled value, how far a DESCALE result lies
from the exact quotient, the laws between the two, and the stream frames from physical values. -/

section

namespace Sys2Proof.Machine

/-! ### Truncation and its distance -/

/-- Truncation moves a value by less than one (R64). -/
theorem abs_truncRat_sub_lt (r : ℚ) : |(truncRat r : ℚ) - r| < 1 := by
  unfold truncRat
  split_ifs
  · rw [abs_sub_lt_iff]
    constructor <;> linarith [Int.floor_le r, Int.lt_floor_add_one r]
  · rw [abs_sub_lt_iff]
    constructor <;> linarith [Int.le_ceil r, Int.ceil_lt_add_one r]

/-- A value less than one from an integer truncates to it, or to the next integer toward zero. -/
theorem truncRat_of_near {r : ℚ} {q : ℤ} (h : |r - q| < 1) :
    truncRat r = q ∨ (0 < q ∧ truncRat r = q - 1) ∨ (q < 0 ∧ truncRat r = q + 1) := by
  obtain ⟨hhi, hlo⟩ := abs_sub_lt_iff.mp h
  unfold truncRat
  split_ifs with hr
  · have hq : 0 < q + 1 := by exact_mod_cast (by linarith : (0 : ℚ) < q + 1)
    have h0 : 0 ≤ ⌊r⌋ := Int.floor_nonneg.mpr hr
    have h1 : q - 1 ≤ ⌊r⌋ := Int.le_floor.mpr (by push_cast; linarith)
    have h2 : ⌊r⌋ < q + 1 := Int.floor_lt.mpr (by push_cast; linarith)
    omega
  · have hq : q - 1 < 0 := by exact_mod_cast (by linarith : (q : ℚ) - 1 < 0)
    have h0 : ⌈r⌉ ≤ 0 := Int.ceil_le.mpr (by push_cast; linarith)
    have h1 : ⌈r⌉ ≤ q + 1 := Int.ceil_le.mpr (by push_cast; linarith)
    have h2 : q - 1 < ⌈r⌉ := Int.lt_ceil.mpr (by push_cast; linarith)
    omega

theorem truncRat_eq_zero {r : ℚ} (h : |r| < 1) : truncRat r = 0 := by
  simpa using truncRat_of_near (q := 0) (by simpa using h)

/-! ### The clamp -/

theorem lowBound_range (qty : Qty) : -32768 ≤ lowBound qty ∧ lowBound qty ≤ -32767 := by
  cases qty <;> decide

theorem lowBound_nonpos (qty : Qty) : lowBound qty ≤ 0 := by
  have := lowBound_range qty
  omega

theorem clampScaled_of_gt {n : ℤ} (h : 32767 < n) (qty : Qty) : clampScaled qty n = ⟨32767, true, false⟩ :=
  if_pos h

theorem clampScaled_of_lt {n : ℤ} {qty : Qty} (h : n < lowBound qty) :
    clampScaled qty n = ⟨lowBound qty, true, false⟩ := by
  have hlo := lowBound_range qty
  rw [clampScaled, qtyLo_eq_lowBound, fieldHi, if_neg (by omega), if_pos h]

theorem clampScaled_of_mem {n : ℤ} {qty : Qty} (hlo : lowBound qty ≤ n) (hhi : n ≤ 32767) :
    clampScaled qty n = ⟨n, false, false⟩ := by
  rw [clampScaled, qtyLo_eq_lowBound, fieldHi, if_neg (by omega), if_neg (by omega)]

/-- From the upper bound up, the clamp gives the upper bound. -/
theorem clampScaled_q_of_high {n : ℤ} (h : 32767 ≤ n) (qty : Qty) : (clampScaled qty n).q = 32767 := by
  have hlo := lowBound_nonpos qty
  rcases h.lt_or_eq with hgt | rfl
  · rw [clampScaled_of_gt hgt]
  · rw [clampScaled_of_mem (by omega) le_rfl]

/-- From the lower bound down, the clamp gives the lower bound. -/
theorem clampScaled_q_of_low {n : ℤ} {qty : Qty} (h : n ≤ lowBound qty) :
    (clampScaled qty n).q = lowBound qty := by
  have hlo := lowBound_nonpos qty
  rcases h.lt_or_eq with hlt | rfl
  · rw [clampScaled_of_lt hlt]
  · rw [clampScaled_of_mem le_rfl (by omega)]

/-- The clamp lands between the quantity's own bounds (R7, R65). -/
theorem clampScaled_bounds (qty : Qty) (n : ℤ) :
    lowBound qty ≤ (clampScaled qty n).q ∧ (clampScaled qty n).q ≤ 32767 := by
  have hlo := lowBound_nonpos qty
  rcases le_total 32767 n with hhigh | hmid
  · rw [clampScaled_q_of_high hhigh]
    omega
  · rcases le_total n (lowBound qty) with hlow | hge
    · rw [clampScaled_q_of_low hlow]
      omega
    · rw [clampScaled_of_mem hge hmid]
      exact ⟨hge, hmid⟩

/-- `Sat16` lands between the quantity's own bounds (R66). -/
theorem sat16_bounds (b : Word) (qty : Qty) :
    lowBound qty ≤ (sat16 b qty).q ∧ (sat16 b qty).q ≤ 32767 := by
  have hlo := qtyLo_range qty
  rw [← qtyLo_eq_lowBound]
  unfold sat16
  split
  case h_4 n _ => exact qtyLo_eq_lowBound qty ▸ clampScaled_bounds qty (scaledInt n qty)
  all_goals
    dsimp only [fieldHi]
    omega

/-! ### Sat16 of a finite value -/

section Finite

variable {b : Word} {qty : Qty}

/-- `Sat16` of a finite value is the clamp of its truncated product (R65). -/
theorem sat16_of_finite (hb : isFinite b) (qty : Qty) :
    sat16 b qty = clampScaled qty (truncRat (ratOf b * scaleFactor qty)) := by
  rw [sat16, f32val_of_finite hb, ratOf_eq, ← scaledInt_eq_truncRat]

/-- A product strictly between the bounds' outer neighbours is truncated, with no flag (R65). -/
theorem sat16_of_unsaturated (hb : isFinite b) (hlo : (lowBound qty : ℚ) - 1 < ratOf b * scaleFactor qty)
    (hhi : ratOf b * scaleFactor qty < 32768) :
    sat16 b qty = ⟨truncRat (ratOf b * scaleFactor qty), false, false⟩ := by
  rw [sat16_of_finite hb]
  apply clampScaled_of_mem
  · rw [← not_lt, truncRat_lt_iff _ _ (lowBound_nonpos qty)]
    exact hlo.not_ge
  · rw [← not_lt, lt_truncRat_iff _ _ (by decide)]
    push_cast
    linarith

/-- A product from 32768 up saturates at the upper bound (R66). -/
theorem sat16_of_high (hb : isFinite b) (h : 32768 ≤ ratOf b * scaleFactor qty) :
    sat16 b qty = ⟨32767, true, false⟩ := by
  rw [sat16_of_finite hb, clampScaled_of_gt ((lt_truncRat_iff _ _ (by decide)).mpr _)]
  push_cast
  linarith

/-- A product from one below the lower bound down saturates at the lower bound (R66). -/
theorem sat16_of_low (hb : isFinite b) (h : ratOf b * scaleFactor qty ≤ (lowBound qty : ℚ) - 1) :
    sat16 b qty = ⟨lowBound qty, true, false⟩ := by
  rw [sat16_of_finite hb, clampScaled_of_lt ((truncRat_lt_iff _ _ (lowBound_nonpos qty)).mpr h)]

end Finite

/-- Settles O29: the integer computation in units of 2^-149 is exact, so it is the rational one. -/
theorem sat16FollowsItsRule : Obligations.Sat16FollowsItsRule := sat16_eq_refSat16

/-- Settles O31: the product saturates on the side where its truncation leaves the range. -/
theorem sat16NeverWraps : Obligations.Sat16NeverWraps := by
  intro b qty
  obtain ⟨hlo, hhi⟩ := sat16_bounds b qty
  refine ⟨hlo, hhi, fun hb h => ?_, fun hb h => ?_⟩
  · rw [sat16_of_finite hb, clampScaled_of_gt h]
  · rw [sat16_of_finite hb, clampScaled_of_lt h]

/-! ### int16 fields as numbers -/

/-- s16(u16(q)) of an int16 q is q (R9). -/
theorem toInt_u16 {q : ℤ} (hlo : -32768 ≤ q) (hhi : q ≤ 32767) : (u16 q).toInt = q :=
  BitVec.toInt_ofInt_eq_self (by decide) (by omega) (by omega)

theorem toInt_sext32 (h : Half) : (sext32 h).toInt = h.toInt :=
  BitVec.toInt_signExtend_of_le (by decide)

theorem toInt_sentinel_word : (0xFFFF8000#32).toInt = -32768 := by decide

/-- Settles O32: `Sat16` of a position is at least -32767, and RES0 is its sign extension. -/
theorem scaledPositionIsNeverSentinel : Obligations.ScaledPositionIsNeverSentinel := by
  have hne : ∀ b : Word, (sat16 b .pos).q ≠ -32768 := fun b h =>
    absurd (h ▸ (sat16_bounds b .pos).1) (by decide)
  refine ⟨hne, fun s => ⟨_, exec_scaleInstr .pos s, fun hres => hne s.opa ?_⟩⟩
  obtain ⟨hlo, hhi⟩ := sat16_range s.opa .pos
  calc (sat16 s.opa .pos).q = (sext32 (u16 (sat16 s.opa .pos).q)).toInt := by
        rw [toInt_sext32, toInt_u16 hlo hhi]
    _ = (0xFFFF8000#32).toInt := congrArg BitVec.toInt hres
    _ = -32768 := toInt_sentinel_word

/-! ### The saturation thresholds -/

theorem scaleFactor_pos (qty : Qty) : 0 < scaleFactor qty := by
  linarith [(scaleFactor_bounds qty).1]

theorem physical_le_iff (n : ℤ) (qty : Qty) (v : ℚ) : physical n qty ≤ v ↔ n ≤ v * scaleFactor qty :=
  div_le_iff₀ (scaleFactor_pos qty)

theorem le_physical_iff (n : ℤ) (qty : Qty) (v : ℚ) : v ≤ physical n qty ↔ v * scaleFactor qty ≤ n :=
  le_div_iff₀ (scaleFactor_pos qty)

section Thresholds

variable {b : Word} {qty : Qty} {c hi lo : ℚ}

/-- `Sat16` saturates exactly from 32768 / F up and from (lo - 1) / F down (R68). -/
theorem sat16_sat_iff (hb : isFinite b) (hhi : physical 32768 qty = hi)
    (hlo : physical (lowBound qty - 1) qty = lo) :
    (sat16 b qty).sat = true ↔ hi ≤ ratOf b ∨ ratOf b ≤ lo := by
  rw [← hhi, ← hlo, physical_le_iff, le_physical_iff]
  push_cast
  constructor
  · intro hsat
    by_contra! h
    rw [sat16_of_unsaturated hb h.2 h.1] at hsat
    cases hsat
  · rintro (h | h)
    · rw [sat16_of_high hb h]
    · rw [sat16_of_low hb h]

/-- From 32767 / F up the result is the upper bound, saturated or not (R68). -/
theorem sat16_q_high (hb : isFinite b) (hc : physical 32767 qty ≤ c) (h : c ≤ ratOf b) :
    (sat16 b qty).q = 32767 := by
  have hx := (physical_le_iff _ _ _).mp (hc.trans h)
  rw [sat16_of_finite hb]
  apply clampScaled_q_of_high
  rw [Int.le_iff_lt_add_one, ← sub_lt_iff_lt_add, lt_truncRat_iff _ _ (by decide)]
  push_cast at hx ⊢
  linarith

/-- From lo / F down the result is the lower bound, saturated or not (R68). -/
theorem sat16_q_low (hb : isFinite b) (hc : c ≤ physical (lowBound qty) qty) (h : ratOf b ≤ c) :
    (sat16 b qty).q = lowBound qty := by
  have hx := (le_physical_iff _ _ _).mp (h.trans hc)
  have hlo := lowBound_range qty
  rw [sat16_of_finite hb]
  apply clampScaled_q_of_low
  rw [Int.le_iff_lt_add_one, truncRat_lt_iff _ _ (by omega)]
  push_cast
  linarith

end Thresholds

/-- Settles O33: each bound of the table is an integer divided by the scale factor. -/
theorem saturationThresholds : Obligations.SaturationThresholds := by
  intro b hb
  refine ⟨sat16_sat_iff hb ?_ ?_, sat16_q_high hb ?_, sat16_q_low hb ?_,
    fun h => sat16_q_high hb ?_ h.1, fun h => sat16_q_low hb ?_ h.2,
    sat16_sat_iff hb ?_ ?_, sat16_q_high hb ?_, sat16_q_low hb ?_,
    sat16_sat_iff hb ?_ ?_, sat16_q_high hb ?_, sat16_q_low hb ?_,
    sat16_sat_iff hb ?_ ?_, sat16_q_high hb ?_, sat16_q_low hb ?_⟩
  all_goals norm_num [physical, scaleFactor, lowBound]

/-! ### Corners -/

/-- A pattern with exponent field 0 is smaller than the least normal value (R10). -/
theorem abs_ratOf_lt_of_subnormal {b : Word} (h : expField b = 0) : |ratOf b| < (2 : ℚ) ^ (-126 : ℤ) := by
  have hf : (fracField b : ℚ) < 2 ^ 23 := by exact_mod_cast Nat.mod_lt b.toNat (by decide : 0 < 2 ^ 23)
  have hsign : |(if 2 ^ 31 ≤ b.toNat then -1 else 1 : ℚ)| = 1 := by split_ifs <;> norm_num
  rw [ratOf, if_pos h, abs_mul, hsign, one_mul, abs_of_nonneg (by positivity)]
  calc (fracField b : ℚ) * 2 ^ (-149 : ℤ) < 2 ^ 23 * 2 ^ (-149 : ℤ) := by gcongr
    _ = 2 ^ (-126 : ℤ) := by norm_num

/-- A finite value below one quantization step scales to 0 (R69). -/
theorem sat16_of_below_step {b : Word} {qty : Qty} (hb : isFinite b)
    (h : |ratOf b| < 1 / scaleFactor qty) : sat16 b qty = ⟨0, false, false⟩ := by
  have hF := scaleFactor_pos qty
  have hlo := lowBound_nonpos qty
  have hx : |ratOf b * scaleFactor qty| < 1 := by
    rwa [abs_mul, abs_of_pos hF, ← lt_div_iff₀ hF]
  rw [sat16_of_finite hb, truncRat_eq_zero hx, clampScaled_of_mem hlo (by decide)]

/-- Settles O34: a subnormal value is below one step too. -/
theorem sat16Corners : Obligations.Sat16Corners := by
  refine fun b qty => ⟨fun h => ?_, sat16_of_below_step, fun h => by rw [sat16, f32val_of_isNaN h]⟩
  have hfin : isFinite b := fun h255 => absurd (h.symm.trans h255) (by decide)
  have hsmall : |ratOf b| < 1 / scaleFactor qty :=
    calc |ratOf b| < 2 ^ (-126 : ℤ) := abs_ratOf_lt_of_subnormal h
      _ < 1 / 4000 := by norm_num
      _ ≤ 1 / scaleFactor qty :=
        one_div_le_one_div_of_le (scaleFactor_pos qty) (scaleFactor_bounds qty).2
  exact sat16_of_below_step hfin hsmall

/-! ### The distance from a DESCALE result to the exact quotient -/

theorem physical_zero (qty : Qty) : physical 0 qty = 0 := by
  rw [physical, Int.cast_zero, zero_div]

theorem abs_physical (q : ℤ) (qty : Qty) : |physical q qty| = |(q : ℚ)| / scaleFactor qty := by
  rw [physical, abs_div, abs_of_pos (scaleFactor_pos qty)]

theorem abs_toInt_le (h : Half) : |(h.toInt : ℚ)| ≤ 32768 := by
  have hlo := BitVec.le_toInt h
  have hhi := BitVec.toInt_lt (x := h)
  exact_mod_cast abs_le.mpr ⟨by omega, by omega⟩

theorem ratOf_zero : ratOf 0#32 = 0 := by norm_num [ratOf, expField, fracField]

/-- DESCALE of 0 is +0 (R74). -/
theorem descale_of_zero {h : Half} (h0 : h.toInt = 0) (qty : Qty) : descale h qty = 0#32 := by
  rw [descale, s16, h0, zero_mul, rne32, if_pos rfl]

/-- DESCALE of 0 is exact. -/
theorem ratOf_descale_of_zero {h : Half} (h0 : h.toInt = 0) (qty : Qty) :
    ratOf (descale h qty) = physical h.toInt qty := by
  rw [descale_of_zero h0, ratOf_zero, h0, physical_zero]

/-- The value of `rne32(p / d)` is at most half a unit `2^k` from `p / d`, which has at least 23 bits above
that unit (R12). -/
theorem rne32_near {p : ℤ} {d : ℕ} (hp : p ≠ 0) (hd : 0 < d)
    (hlo : (2 : ℚ) ^ (-126 : ℤ) ≤ |(p : ℚ) / d|) (hhi : |(p : ℚ) / d| < 2 ^ (127 : ℤ)) :
    ∃ k : ℤ, 2 ^ 23 * (2 : ℚ) ^ k ≤ |(p : ℚ) / d| ∧ 2 * |ratOf (rne32 p d) - p / d| ≤ 2 ^ k := by
  have habs : |(p : ℚ) / d| = (p.natAbs : ℚ) / d := by
    rw [abs_div, Nat.abs_cast, Nat.cast_natAbs, Int.cast_abs]
  rw [habs] at hlo hhi ⊢
  obtain ⟨-, n, hval, hnear, -⟩ := rne32_of_normal hp hd hlo hhi
  refine ⟨unitExp p.natAbs d, (unitExp_quotient (Int.natAbs_pos.mpr hp) hd).1, ?_⟩
  have hsign : |(p.sign : ℚ)| = 1 := by exact_mod_cast Int.abs_sign_of_ne_zero hp
  have hp' : (p : ℚ) = p.sign * p.natAbs := by
    rw [← Int.cast_natCast p.natAbs, ← Int.cast_mul, Int.sign_mul_natAbs]
  rwa [hval, hp', mul_div_assoc, ← mul_sub, abs_mul, hsign, one_mul]

/-- DESCALE of a nonzero field, against the unit of its quotient (R75 to R78). -/
theorem descale_near {h : Half} (hne : h.toInt ≠ 0) (qty : Qty) : ∃ k : ℤ,
    2 ^ 23 * (2 : ℚ) ^ k ≤ |physical h.toInt qty| ∧
      2 * |ratOf (descale h qty) - physical h.toInt qty| ≤ 2 ^ k := by
  obtain ⟨hlo, hhi⟩ := physical_normal hne qty
  have hp : h.toInt * (qty.factorDen : ℤ) ≠ 0 :=
    mul_ne_zero hne (by exact_mod_cast (factorDen_pos qty).ne')
  rw [physical_eq_quotient] at hlo hhi ⊢
  exact rne32_near hp (factorNum_pos qty) hlo hhi

/-- The relative error of DESCALE: 24 bits. -/
theorem descale_relative_error (h : Half) (qty : Qty) :
    2 ^ 24 * |ratOf (descale h qty) - physical h.toInt qty| ≤ |physical h.toInt qty| := by
  by_cases h0 : h.toInt = 0
  · rw [ratOf_descale_of_zero h0, sub_self, abs_zero, mul_zero]
    exact abs_nonneg _
  · obtain ⟨k, hk, hnear⟩ := descale_near h0 qty
    linarith

/-- The absolute error of DESCALE: half the binary32 spacing below `2^m`. -/
theorem descale_absolute_error {h : Half} {qty : Qty} {m : ℤ} (hm : |physical h.toInt qty| < (2 : ℚ) ^ m) :
    2 * |ratOf (descale h qty) - physical h.toInt qty| ≤ 2 ^ (m - 24) := by
  by_cases h0 : h.toInt = 0
  · rw [ratOf_descale_of_zero h0, sub_self, abs_zero, mul_zero]
    positivity
  · obtain ⟨k, hk, hnear⟩ := descale_near h0 qty
    have hkm := hk.trans_lt hm
    rw [← zpow_natCast, ← zpow_add₀ (by norm_num), zpow_lt_zpow_iff_right₀ (by norm_num)] at hkm
    exact hnear.trans (zpow_le_zpow_right₀ (by norm_num) (by omega))

/-- A nonzero field's quotient is at least 1/4000 in magnitude (R74). -/
theorem le_abs_physical {q : ℤ} (hq : q ≠ 0) (qty : Qty) : 1 / 4000 ≤ |physical q qty| := by
  have hq1 : (1 : ℚ) ≤ |(q : ℚ)| := by exact_mod_cast Int.one_le_abs hq
  rw [abs_physical]
  exact div_le_div₀ (abs_nonneg _) hq1 (scaleFactor_pos qty) (scaleFactor_bounds qty).2

/-- An int16 field's quotient is at most 1179.648 in magnitude (R74). -/
theorem abs_physical_le (h : Half) (qty : Qty) : |physical h.toInt qty| ≤ 1179.648 := by
  have hF : 250 / 9 ≤ scaleFactor qty := by cases qty <;> norm_num [scaleFactor]
  calc |physical h.toInt qty| = |(h.toInt : ℚ)| / scaleFactor qty := abs_physical _ _
    _ ≤ 32768 / (250 / 9) := div_le_div₀ (by norm_num) (abs_toInt_le h) (by norm_num) hF
    _ = 1179.648 := by norm_num

/-- A nonzero field's DESCALE result is no smaller than the least normal value (R74). -/
theorem expField_descale_ne_zero {h : Half} (hne : h.toInt ≠ 0) (qty : Qty) :
    expField (descale h qty) ≠ 0 := by
  intro hexp
  have hsmall := abs_ratOf_lt_of_subnormal hexp
  have hquot := le_abs_physical hne qty
  have herr := descale_relative_error h qty
  have htri := abs_sub_abs_le_abs_sub (physical h.toInt qty) (ratOf (descale h qty))
  rw [abs_sub_comm] at htri
  norm_num at hsmall
  linarith

/-- Settles O36: only 0 has a quotient below 1/4000, and its result is +0. -/
theorem descaleResultIsZeroOrNormal : Obligations.DescaleResultIsZeroOrNormal := by
  intro h qty
  by_cases h0 : h.toInt = 0
  · have hzero := descale_of_zero h0 qty
    exact ⟨.inl (by rw [h0, physical_zero]), .inl hzero, fun _ => hzero⟩
  · have hne := expField_descale_ne_zero h0 qty
    have hfin : expField (descale h qty) ≠ 255 := (isRne32_descale h qty).1
    have hlt : expField (descale h qty) < 256 := Nat.mod_lt _ (by decide)
    exact ⟨.inr ⟨le_abs_physical h0 qty, abs_physical_le h qty⟩, .inr ⟨by omega, by omega⟩,
      fun h' => absurd (h' ▸ BitVec.toInt_zero) h0⟩

/-! ### SCALE and DESCALE together -/

/-- A distance from the physical value, in quantization steps. -/
theorem abs_sub_physical_mul (v : ℚ) (q : ℤ) (qty : Qty) :
    |v - physical q qty| * scaleFactor qty = |v * scaleFactor qty - q| := by
  have hF := scaleFactor_pos qty
  calc |v - physical q qty| * scaleFactor qty = |(v - physical q qty) * scaleFactor qty| := by
        rw [abs_mul, abs_of_pos hF]
    _ = |v * scaleFactor qty - q| := by rw [sub_mul, physical, div_mul_cancel₀ _ hF.ne']

/-- Scaling a DESCALE result comes back to within 1/512 of the field. -/
theorem descale_product_near (h : Half) (qty : Qty) :
    |ratOf (descale h qty) * scaleFactor qty - h.toInt| ≤ 1 / 512 := by
  have hF := scaleFactor_pos qty
  have herr := descale_relative_error h qty
  have hq := abs_toInt_le h
  rw [abs_physical, le_div_iff₀ hF, mul_assoc, abs_sub_physical_mul] at herr
  linarith

/-- Settles O38: the product is within 1/512 of the field, so it is in range and truncates to the field or
its neighbour toward zero. -/
theorem scaleAfterDescaleIsWithinOneStepOfZero :
    Obligations.ScaleAfterDescaleIsWithinOneStepOfZero := by
  intro h qty hlow
  have hnear := descale_product_near h qty
  obtain ⟨hup, hdown⟩ := abs_sub_le_iff.mp hnear
  have hlow' : (lowBound qty : ℚ) ≤ h.toInt := by exact_mod_cast hlow
  have hhigh : (h.toInt : ℚ) ≤ 32767 := by
    have := BitVec.toInt_lt (x := h)
    exact_mod_cast (by omega : h.toInt ≤ 32767)
  rw [sat16_of_unsaturated (isRne32_descale h qty).1 (by linarith) (by linarith)]
  exact ⟨rfl, rfl, truncRat_of_near (hnear.trans_lt (by norm_num))⟩

/-- The power of two just above every quotient of an int16 field: R79's spacing is `2^-24` of it. -/
def binadeExp : Qty → ℤ
  | .pos => 11
  | .vel => 4
  | .acc => 6
  | .tqe => 8

theorem abs_physical_lt_binade (h : Half) (qty : Qty) :
    |physical h.toInt qty| < (2 : ℚ) ^ binadeExp qty := by
  have hq := abs_toInt_le h
  rw [abs_physical, div_lt_iff₀ (scaleFactor_pos qty)]
  refine hq.trans_lt ?_
  cases qty <;> norm_num [binadeExp, scaleFactor]

/-- The quotient of the truncated product is less than one step from the value (R79). -/
theorem abs_physical_truncRat_sub_lt (v : ℚ) (qty : Qty) :
    |physical (truncRat (v * scaleFactor qty)) qty - v| < 1 / scaleFactor qty := by
  rw [lt_div_iff₀ (scaleFactor_pos qty), abs_sub_comm, abs_sub_physical_mul, abs_sub_comm]
  exact abs_truncRat_sub_lt _

/-- Settles O37: the truncation's step plus half the binary32 spacing. -/
theorem scaleDescaleWithinOneStep : Obligations.ScaleDescaleWithinOneStep := by
  intro b qty hb hlo hhi
  have hq : (sat16 b qty).q = truncRat (ratOf b * scaleFactor qty) := by
    rw [sat16_of_unsaturated hb (by linarith) hhi]
  have hstep := abs_physical_truncRat_sub_lt (ratOf b) qty
  rw [← hq] at hstep
  obtain ⟨hlow, hhigh⟩ := sat16_range b qty
  have herr := descale_absolute_error (abs_physical_lt_binade (u16 (sat16 b qty).q) qty)
  rw [toInt_u16 hlow hhigh] at herr
  refine ⟨hstep, (abs_sub_le _ (physical (sat16 b qty).q qty) _).trans_lt ?_⟩
  rw [add_comm (1 / scaleFactor qty)]
  refine add_lt_add_of_le_of_lt ?_ hstep
  cases qty <;> norm_num [binadeExp] at herr ⊢ <;> linarith

/-! ### The stream frames -/

/-- The flags of a stream frame as a number, each at its STATUS bit (R25, R85). -/
theorem value_encStreamFlags (sat0 sat1 sat2 nan0 nan1 nan2 sent : Bool) :
    ({ sat0 := sat0, sat1 := sat1, sat2 := sat2, nan0 := nan0, nan1 := nan1, nan2 := nan2,
       sent := sent } : Flags).value =
      sat0.toNat + 2 * sat1.toNat + 4 * sat2.toNat + 16 * nan0.toNat + 32 * nan1.toNat +
        64 * nan2.toNat + 256 * sent.toNat := by
  simp only [Flags.value, Bool.toNat_false, Nat.mul_zero, Nat.add_zero]

/-- Payload bytes 0 to 3 of a stream frame: the position below the velocity (R83). -/
theorem lowWord_packStream (pos vel f2 : Half) : (packStream pos vel f2).lowWord = vel ++ pos :=
  concat4_halves vel pos

/-- Payload bytes 4 to 7 of a stream frame: the third field below the padding (R81, R83). -/
theorem highWord_packStream (pos vel f2 : Half) : (packStream pos vel f2).highWord = 0x5050#16 ++ f2 :=
  concat4_halves 0x5050#16 f2

/-- What an ENC_STREAM command writes, by its three fields (R83, R85, R86). -/
theorem complete_streamResults (id : BitVec 29) (p v f : StreamField) (s : State) :
    complete (streamResults id p v f) s = { s with
      res0 := sext32 p.field, res1 := sext32 v.field, res2 := sext32 f.field
      pout0 := v.field ++ p.field
      pout1 := 0x5050#16 ++ f.field
      arb := arbWord false id
      dlc := 8#32
      status := BitVec.ofNat 32
        (2 ^ 31 + p.sat.toNat + 2 * v.sat.toNat + 4 * f.sat.toNat + 16 * p.nan.toNat +
          32 * v.nan.toNat + 64 * f.nan.toNat + 256 * (p.field == sentinel).toNat) } := by
  simp only [complete, streamResults, completedStatus_eq_ofNat, value_encStreamFlags,
    lowWord_packStream, highWord_packStream, Nat.add_assoc]
  rfl

/-- A `Sat16` result as a field of a frame (R89, R92). -/
def Scaled.toField (r : Scaled) : StreamField := ⟨u16 r.q, r.sat, r.nan⟩

theorem floatField_eq_toField (b : Word) (qty : Qty) : floatField b qty = (sat16 b qty).toField := rfl

/-- The position under VO is the field of -32768, with no flag (R84). -/
theorem positionField_toField (vo : Bool) (r : Scaled) :
    positionField vo r.toField = (if vo then ⟨-32768, false, false⟩ else r : Scaled).toField := by
  cases vo <;> rfl

/-- A field is an int16 (R9). -/
def Scaled.IsInt16 (r : Scaled) : Prop := -32768 ≤ r.q ∧ r.q ≤ 32767

theorem Scaled.IsInt16.sext32_field {r : Scaled} (h : r.IsInt16) :
    sext32 r.toField.field = BitVec.ofInt 32 r.q :=
  sext32_u16 h.1 h.2

/-- SENT marks the field -32768 (R85). -/
theorem Scaled.IsInt16.field_eq_sentinel {r : Scaled} (h : r.IsInt16) :
    (r.toField.field == sentinel) = decide (r.q = -32768) := by
  have hs : sentinel.toInt = -32768 := by decide
  rw [Bool.eq_iff_iff, beq_iff_eq, decide_eq_true_iff, ← BitVec.toInt_inj, hs, Scaled.toField,
    toInt_u16 h.1 h.2]

theorem isInt16_sat16 (b : Word) (qty : Qty) : (sat16 b qty).IsInt16 := sat16_range b qty

/-- The position of a frame is an int16, with or without VO (R84). -/
theorem isInt16_position (vo : Bool) {r : Scaled} (h : r.IsInt16) :
    (if vo then ⟨-32768, false, false⟩ else r : Scaled).IsInt16 := by
  cases vo
  · exact h
  · exact ⟨by simp, by simp⟩

/-- The float ENC_STREAM commands complete with the fields of the three `Sat16` results (R89, R92). -/
theorem exec_floatStream (ft vo : Bool) (s : State) :
    exec (floatStream ft vo) s = .next (complete (streamResults (if ft then streamADId else stream90Id)
      (if vo then ⟨-32768, false, false⟩ else sat16 s.opa .pos : Scaled).toField
      (sat16 s.opb .vel).toField (sat16 s.opc (if ft then .acc else .tqe)).toField) s) := by
  rw [← positionField_toField]
  cases ft <;> rfl

/-- The two stream frames' ARB words (R86). -/
theorem arbWord_stream (ft : Bool) :
    arbWord false (if ft then streamADId else stream90Id) =
      if ft then 0x000000AD#32 else 0x00000090#32 := by
  cases ft <;> decide

/-- Settles O39: the frame's fields are int16 results of `Sat16`, and -32768 under VO. -/
theorem floatStreamFrames : Obligations.FloatStreamFrames := by
  rintro ft vo s p v f rfl rfl rfl
  simp only [← sat16_eq_refSat16]
  have hp := isInt16_position vo (isInt16_sat16 s.opa .pos)
  have hv := isInt16_sat16 s.opb .vel
  have hf := isInt16_sat16 s.opc (if ft then .acc else .tqe)
  rw [exec_floatStream, complete_streamResults, hp.sext32_field, hv.sext32_field, hf.sext32_field,
    hp.field_eq_sentinel, arbWord_stream]
  rfl

end Sys2Proof.Machine

end

/-! Proofs for the frame encoder family: the frame each encoder completes with, its identifier and padding,
and the sentinel position of the stream frames. -/

section

namespace Sys2Proof.Machine

/-! ### Every encoder completes -/

theorem isDecoder_of_isEncoder {i : Instr} (h : isEncoder i = true) : isDecoder i = false := by
  cases i
  case decStream | decDisc => cases h
  all_goals rfl

/-- An encoder completes with its results, from every state (R100). -/
theorem exec_of_isEncoder {i : Instr} (h : isEncoder i = true) (s : State) :
    exec i s = .next (complete (resultsOf s i) s) := by
  rw [exec_eq, isDecoder_of_isEncoder h, if_neg (fun hbad => Bool.false_ne_true hbad.1)]

theorem eq_complete_of_isEncoder {i : Instr} {s t : State} (hi : isEncoder i = true)
    (h : exec i s = .next t) : t = complete (resultsOf s i) s := by
  rw [exec_of_isEncoder hi] at h
  simpa using h.symm

/-! ### The bytes of a payload in its two words -/

theorem highByte_concat2 (b1 b0 : Byte) : highByte (concat2 b1 b0) = b1 :=
  BitVec.extractLsb'_append_eq_left

theorem lowByte_concat2 (b1 b0 : Byte) : lowByte (concat2 b1 b0) = b0 :=
  BitVec.extractLsb'_append_eq_right

/-- Four bytes are two halves of two bytes (R8). -/
theorem concat4_eq_append (b3 b2 b1 b0 : Byte) :
    concat4 b3 b2 b1 b0 = concat2 b3 b2 ++ concat2 b1 b0 := by
  rw [← concat4_halves, highByte_concat2, lowByte_concat2, highByte_concat2, lowByte_concat2]

theorem concat2_padByte : concat2 padByte padByte = 0x5050#16 := rfl

theorem concat4_padByte : concat4 padByte padByte padByte padByte = 0x50505050#32 := by decide

theorem lowWord_upperHalf (p : Payload) : p.lowWord.extractLsb' 16 16 = concat2 p.b3 p.b2 := by
  rw [Payload.lowWord, concat4_eq_append, BitVec.extractLsb'_append_eq_left]

theorem highWord_lowerHalf (p : Payload) : p.highWord.extractLsb' 0 16 = concat2 p.b5 p.b4 := by
  rw [Payload.highWord, concat4_eq_append, BitVec.extractLsb'_append_eq_right]

theorem highWord_upperHalf (p : Payload) : p.highWord.extractLsb' 16 16 = concat2 p.b7 p.b6 := by
  rw [Payload.highWord, concat4_eq_append, BitVec.extractLsb'_append_eq_left]

/-- The two bytes of a 16-bit field of a word (R39). -/
theorem byteOf_of_half {w : Word} {i : Nat} {b1 b0 : Byte} (h : w.extractLsb' (8 * i) 16 = concat2 b1 b0) :
    byteOf w (i + 1) = b1 ∧ byteOf w i = b0 :=
  concat2_inj.mp ((concat2_byteOf w i).trans h)

/-! ### The identifiers as numbers -/

theorem arbWord_toNat (ide : Bool) (id : BitVec 29) :
    (arbWord ide id).toNat = 2 ^ 31 * ide.toNat + id.toNat := by
  have happ : (arbWord ide id).toNat = (BitVec.ofBool ide ++ 0#2).toNat <<< 29 ||| id.toNat :=
    BitVec.toNat_append _ _
  rw [happ, ← Nat.shiftLeft_add_eq_or_of_lt id.isLt]
  cases ide <;> rfl

theorem midId_toNat (mid : Byte) : (midId mid).toNat = mid.toNat :=
  BitVec.toNat_setWidth_of_le (by decide)

/-- ARB of a standard frame to a motor is the motor's identifier (R86). -/
theorem arbWord_midId (mid : Byte) : arbWord false (midId mid) = BitVec.ofNat 32 mid.toNat := by
  have hmid := mid.isLt
  apply BitVec.eq_of_toNat_eq
  rw [arbWord_standard_toNat, midId_toNat, BitVec.toNat_ofNat]
  omega

/-- MID stands below bit 15, so setting that bit adds its weight (R93). -/
theorem pingId_toNat (mid : Byte) : (0x8000#29 ||| midId mid).toNat = 0x8000 + mid.toNat := by
  have hmid := mid.isLt
  rw [BitVec.toNat_or, midId_toNat]
  exact (Nat.two_pow_add_eq_or_of_lt (i := 15) (by omega) 1).symm

/-- ARB of the ping: an extended frame, whose identifier is above 0x8000 by MID (R93). -/
theorem arbWord_ping (mid : Byte) :
    arbWord true (0x8000#29 ||| midId mid) = BitVec.ofNat 32 (0x80008000 + mid.toNat) := by
  have hmid := mid.isLt
  apply BitVec.eq_of_toNat_eq
  rw [arbWord_toNat, pingId_toNat, BitVec.toNat_ofNat, Bool.toNat_true]
  omega

/-! ### The frames without int16 fields -/

/-- STATUS of a completed command without flags is DONE alone (R56). -/
theorem completedStatus_noFlags : completedStatus {} = 0x80000000#32 := by decide

/-- A frame without int16 fields leaves RES0 to RES2 and every flag 0 (R57, R82). -/
theorem complete_plainFrame (p : Payload) (arb : Word) (s : State) :
    complete { pout := p, arb := arb, dlc := 8#4 } s = { s with
      res0 := 0#32, res1 := 0#32, res2 := 0#32
      pout0 := p.lowWord, pout1 := p.highWord
      arb := arb, dlc := 8#32, status := 0x80000000#32 } := by
  simp only [complete, completedStatus_noFlags]
  rfl

/-- Settles O41: bytes 2 to 5 of the frame are the bytes of OPA, low first. -/
theorem registerWriteFrame : Obligations.RegisterWriteFrame := by
  intro addr mid s
  have hlow : concat4 (byteOf s.opa 1) (byteOf s.opa 0) addr 0x0D#8 =
      s.opa.extractLsb' 8 8 ++ s.opa.extractLsb' 0 8 ++ addr ++ 0x0D#8 := rfl
  have hhigh : concat4 padByte padByte (byteOf s.opa 3) (byteOf s.opa 2) =
      0x5050#16 ++ s.opa.extractLsb' 24 8 ++ s.opa.extractLsb' 16 8 :=
    congrArg (· ++ s.opa.extractLsb' 24 8 ++ s.opa.extractLsb' 16 8) concat2_padByte
  rw [exec_of_isEncoder rfl, resultsOf, complete_plainFrame, arbWord_midId]
  simp only [Payload.lowWord, Payload.highWord, hlow, hhigh]

/-- Settles O42: of the frame's bytes only the mode is not fixed. -/
theorem modeWriteFrame : Obligations.ModeWriteFrame := by
  intro mode mid s
  have hlow : concat4 padByte mode 0x00#8 0x01#8 = 0x50#8 ++ mode ++ 0x0001#16 :=
    concat4_eq_append padByte mode 0x00#8 0x01#8
  rw [exec_of_isEncoder rfl, resultsOf, complete_plainFrame, arbWord_midId]
  simp only [Payload.lowWord, Payload.highWord, hlow, concat4_padByte]

/-- Settles O43: the payload is fixed, and MID goes to the identifier alone. -/
theorem pingFrame : Obligations.PingFrame := by
  intro mid s
  have hlow : concat4 padByte padByte 0x00#8 0x11#8 = 0x50500011#32 := by decide
  rw [exec_of_isEncoder rfl, resultsOf, complete_plainFrame, arbWord_ping]
  simp only [Payload.lowWord, Payload.highWord, hlow, concat4_padByte]

/-! ### The stream frames -/

/-- A field of a stream frame from its operand, by CMD.RAW (R54). -/
def operandField (raw : Bool) (b : Word) (qty : Qty) : StreamField :=
  if raw then rawField b else floatField b qty

/-- The eight ENC_STREAM commands, once over: the frame of the three operands' fields, with the position
replaced under VO (R84, R89 to R92). -/
theorem resultsOf_streamInstr (ft raw vo : Bool) (s : State) :
    resultsOf s (streamInstr ft raw vo) = streamResults (if ft then streamADId else stream90Id)
      (positionField vo (operandField raw s.opa .pos)) (operandField raw s.opb .vel)
      (operandField raw s.opc (if ft then .acc else .tqe)) := by
  cases ft <;> cases raw <;> rfl

theorem isEncoder_streamInstr (ft raw vo : Bool) : isEncoder (streamInstr ft raw vo) = true := by
  cases ft <;> cases raw <;> rfl

theorem exec_streamInstr (ft raw vo : Bool) (s : State) :
    exec (streamInstr ft raw vo) s = .next (complete (resultsOf s (streamInstr ft raw vo)) s) :=
  exec_of_isEncoder (isEncoder_streamInstr ft raw vo) s

/-- The raw ENC_STREAM commands emit int16 patterns, none of them flagged (R84, R90, R91). -/
theorem resultsOf_rawStream (ft vo : Bool) (s : State) :
    resultsOf s (rawStream ft vo) = streamResults (if ft then streamADId else stream90Id)
      { field := if vo then sentinel else rawOperand s.opa } { field := rawOperand s.opb }
      { field := rawOperand s.opc } := by
  cases ft <;> cases vo <;> rfl

/-- With no field flagged, STATUS is DONE and SENT (R85). -/
theorem complete_streamResults_unflagged (id : BitVec 29) (p v f : Half) (s : State) :
    complete (streamResults id { field := p } { field := v } { field := f }) s = { s with
      res0 := sext32 p, res1 := sext32 v, res2 := sext32 f
      pout0 := v ++ p
      pout1 := 0x5050#16 ++ f
      arb := arbWord false id
      dlc := 8#32
      status := if p = sentinel then 0x80000100#32 else 0x80000000#32 } := by
  rw [complete_streamResults]
  by_cases hp : p = sentinel
  · rw [if_pos hp, beq_iff_eq.mpr hp]
    rfl
  · rw [if_neg hp, beq_eq_false_iff_ne.mpr hp]
    rfl

/-- Settles O40: the three fields are int16 patterns without flags. -/
theorem rawStreamFrames : Obligations.RawStreamFrames := by
  rintro ft vo s p v f rfl rfl rfl
  rw [exec_of_isEncoder (i := rawStream ft vo) (isEncoder_streamInstr ft true vo), resultsOf_rawStream,
    complete_streamResults_unflagged, arbWord_stream]
  rfl

/-! ### The sentinel -/

/-- SENT says that the frame's position field is the sentinel (R85). -/
theorem streamInstr_sent_bit (ft raw vo : Bool) (s : State) :
    (complete (resultsOf s (streamInstr ft raw vo)) s).status.getLsbD 8 = true ↔
      (positionField vo (operandField raw s.opa .pos)).field = sentinel := by
  rw [complete_status, getLsbD_completedStatus _ _ (by decide), resultsOf_streamInstr]
  simp [streamResults]

/-- Payload bytes 0 and 1 are the position field (R83). -/
theorem streamInstr_position_bytes (ft raw vo : Bool) (s : State) :
    (complete (resultsOf s (streamInstr ft raw vo)) s).pout0.extractLsb' 0 16 =
      (positionField vo (operandField raw s.opa .pos)).field := by
  rw [resultsOf_streamInstr, complete_streamResults]
  exact BitVec.extractLsb'_append_eq_right

/-- SAT0 and NAN0 are the flags of the position field (R26). -/
theorem streamInstr_position_flags (ft raw vo : Bool) (s : State) :
    (complete (resultsOf s (streamInstr ft raw vo)) s).status.getLsbD 0 =
        (positionField vo (operandField raw s.opa .pos)).sat ∧
      (complete (resultsOf s (streamInstr ft raw vo)) s).status.getLsbD 4 =
        (positionField vo (operandField raw s.opa .pos)).nan := by
  rw [complete_status, getLsbD_completedStatus _ _ (by decide), getLsbD_completedStatus _ _ (by decide),
    resultsOf_streamInstr]
  simp [streamResults]

/-- The range of a position stops above -32768, so a scaled one is not the sentinel (R67). -/
theorem floatField_pos_ne_sentinel (b : Word) : (floatField b .pos).field ≠ sentinel := by
  obtain ⟨hq, -⟩ := scaledPositionIsNeverSentinel
  rw [floatField_eq_toField, ← beq_eq_false_iff_ne, (isInt16_sat16 b .pos).field_eq_sentinel]
  exact decide_eq_false (hq b)

/-- What puts the sentinel in the position field: VO, or a raw operand that holds it (R85). -/
theorem positionField_eq_sentinel {vo raw : Bool} {b : Word} :
    (positionField vo (operandField raw b .pos)).field = sentinel ↔
      vo = true ∨ (raw = true ∧ b.extractLsb' 0 16 = 0x8000#16) := by
  cases vo with
  | true => exact iff_of_true rfl (.inl rfl)
  | false =>
    cases raw with
    | true => exact ⟨fun h => .inr ⟨rfl, h⟩, fun h => (h.resolve_left Bool.false_ne_true).2⟩
    | false => exact iff_of_false (floatField_pos_ne_sentinel b) (by simp)

/-- Settles O44: SENT and bytes 0 and 1 both follow the position field. -/
theorem sentFlagMarksTheSentinel : Obligations.SentFlagMarksTheSentinel := by
  intro ft raw vo s
  refine ⟨_, exec_streamInstr ft raw vo s, ?_, ?_⟩
  · rw [streamInstr_sent_bit, streamInstr_position_bytes, sentinel]
  · rw [streamInstr_sent_bit, positionField_eq_sentinel]

/-- Settles O45: under VO the position field is the bare sentinel, and no other field reads OPA. -/
theorem velocityOnlyDoesNotReadOpa : Obligations.VelocityOnlyDoesNotReadOpa := by
  intro ft raw s
  obtain ⟨hhigh, hlow⟩ := byteOf_of_half (i := 0) (b1 := 0x80#8) (b0 := 0x00#8)
    (streamInstr_position_bytes ft raw true s)
  obtain ⟨hsat, hnan⟩ := streamInstr_position_flags ft raw true s
  have hopa (x : Word) : resultsOf { s with opa := x } (streamInstr ft raw true) =
      resultsOf s (streamInstr ft raw true) := by
    rw [resultsOf_streamInstr, resultsOf_streamInstr]
    rfl
  refine ⟨_, exec_streamInstr ft raw true s, hlow, hhigh, hsat, hnan, fun x => ?_⟩
  rw [exec_streamInstr, hopa]
  rfl

/-! ### The identifier of each encoder -/

theorem arbWord_id (ide : Bool) (id : BitVec 29) : (arbWord ide id).extractLsb' 0 29 = id :=
  BitVec.extractLsb'_append_eq_right

theorem arbWord_ide (ide : Bool) (id : BitVec 29) : (arbWord ide id).getLsbD 31 = ide := by
  rw [getLsbD_arbWord _ _ _ (by decide), if_neg (by decide), decide_eq_true rfl, Bool.and_true]

theorem arbWord_middle (ide : Bool) (id : BitVec 29) : (arbWord ide id).extractLsb' 29 2 = 0#2 := by
  apply BitVec.eq_of_getLsbD_eq
  intro j hj
  rw [BitVec.getLsbD_extractLsb', getLsbD_arbWord _ _ _ (by omega)]
  interval_cases j <;> simp

/-- The only command that emits an extended frame (R86). -/
def isPing : Instr → Bool
  | .encPing _ => true
  | _ => false

theorem isPing_iff {i : Instr} : isPing i = true ↔ ∃ mid, i = .encPing mid := by
  cases i <;> simp [isPing]

/-- The identifier of the frame a command emits (R86). -/
def frameId : Instr → BitVec 29
  | .enc90f _ | .enc90r _ => 0x090#29
  | .encAdf _ | .encAdr _ => 0x0AD#29
  | .encMode _ mid | .encRegw _ mid => BitVec.ofNat 29 mid.toNat
  | .encPing mid => 0x8000#29 ||| BitVec.ofNat 29 mid.toNat
  | _ => 0#29

theorem midId_eq_ofNat (mid : Byte) : midId mid = BitVec.ofNat 29 mid.toNat :=
  (BitVec.ofNat_toNat 29 mid).symm

/-- ARB among a command's results; a command without a frame has none, so 0 (R57, R86). -/
theorem resultsOf_arb (i : Instr) (s : State) :
    (resultsOf s i).arb = arbWord (isPing i) (frameId i) := by
  cases i
  case encMode | encRegw | encPing =>
    rw [frameId, ← midId_eq_ofNat]
    rfl
  all_goals rfl

/-- Settles O46: ARB is the IDE bit and the identifier of the encoder. -/
theorem arbitrationIdentifiers : Obligations.ArbitrationIdentifiers := by
  intro i s t hi h
  rw [eq_complete_of_isEncoder hi h, complete_arb, resultsOf_arb, arbWord_middle, arbWord_ide,
    arbWord_id]
  refine ⟨rfl, isPing_iff, ?_, ?_, ?_, ?_⟩
  · rintro vo (rfl | rfl) <;> rfl
  · rintro vo (rfl | rfl) <;> rfl
  · rintro x mid (rfl | rfl) <;> rfl
  · rintro mid rfl
    rfl

/-! ### Padding -/

/-- Bytes 6 and 7 are padding in every layout (R81). -/
theorem resultsOf_padding {i : Instr} (h : isEncoder i = true) (s : State) :
    concat2 (resultsOf s i).pout.b7 (resultsOf s i).pout.b6 = concat2 padByte padByte := by
  cases i
  case enc90f | enc90r | encAdf | encAdr | encMode | encRegw | encPing => rfl
  all_goals cases h

/-- Settles O47: the padding bytes of each layout, two at a time. -/
theorem encodersPadWith0x50 : Obligations.EncodersPadWith0x50 := by
  intro i s t hi h
  rw [eq_complete_of_isEncoder hi h, complete_pout0, complete_pout1, highWord_upperHalf,
    highWord_lowerHalf, lowWord_upperHalf, resultsOf_padding hi]
  refine ⟨concat2_padByte, ?_, ?_⟩
  · rintro mode mid rfl
    obtain ⟨hpad, -⟩ := byteOf_of_half (i := 2) (lowWord_upperHalf (resultsOf s (.encMode mode mid)).pout)
    exact ⟨hpad, concat2_padByte⟩
  · rintro mid rfl
    exact ⟨concat2_padByte, concat2_padByte⟩

end Sys2Proof.Machine

end

/-! Proofs for the frame decoder family: which bytes of the payload the discovery decoder reads, and the
round trip of a stream frame through the stream decoder. -/

section

namespace Sys2Proof.Machine

/-! ### The bytes of the payload input -/

/-- Bytes 0 to 3 of the payload are those of PIN0 (R19). -/
theorem payloadByte_low (hi lo : Word) {k : Nat} (hk : k < 4) :
    (hi ++ lo).extractLsb' (8 * k) 8 = byteOf lo k :=
  BitVec.extractLsb'_append_eq_of_add_le (by omega)

/-- Bytes 4 to 7 of the payload are those of PIN1 (R19). -/
theorem payloadByte_high (hi lo : Word) (k : Nat) :
    (hi ++ lo).extractLsb' (8 * (4 + k)) 8 = byteOf hi k := by
  rw [BitVec.extractLsb'_append_eq_of_le (by omega), byteOf]
  congr 1
  omega

/-- A word is determined by its four bytes (R8). -/
theorem eq_of_byteOf_eq {v w : Word} (h : ∀ k < 4, byteOf v k = byteOf w k) : v = w := by
  rw [← concat4_byteOf v, ← concat4_byteOf w, h 0 (by decide), h 1 (by decide), h 2 (by decide),
    h 3 (by decide)]

/-- The payloads held by two pairs of registers agree on their first `n` bytes. -/
def payloadsAgree (n : Nat) (hi lo hi' lo' : Word) : Prop :=
  ∀ k < n, (hi ++ lo).extractLsb' (8 * k) 8 = (hi' ++ lo').extractLsb' (8 * k) 8

section Agreement

variable {n : Nat} {hi lo hi' lo' : Word}

/-- Four bytes of agreement fix the word of bytes 0 to 3. -/
theorem payloadsAgree.low_eq (h : payloadsAgree n hi lo hi' lo') (hn : 4 ≤ n) : lo = lo' :=
  eq_of_byteOf_eq fun k hk => by
    rw [← payloadByte_low hi lo hk, h k (by omega), payloadByte_low hi' lo' hk]

/-- Eight bytes of agreement fix the word of bytes 4 to 7. -/
theorem payloadsAgree.high_eq (h : payloadsAgree n hi lo hi' lo') (hn : 8 ≤ n) : hi = hi' :=
  eq_of_byteOf_eq fun k hk => by
    rw [← payloadByte_high hi lo k, h (4 + k) (by omega), payloadByte_high hi' lo' k]

end Agreement

/-! ### The discovery decoder -/

/-- DEC_DISC reads PIN0 only from length 4 on, and PIN1 only at length 8 (R96). -/
theorem decDiscResults_congr {s t : State} (hplen : s.plen = t.plen) (hlen : s.plen.toNat % 16 ≤ 8)
    (hname : 4 ≤ s.plen.toNat % 16 → s.pin0 = t.pin0)
    (hversion : s.plen.toNat % 16 = 8 → s.pin1 = t.pin1) :
    decDiscResults s = decDiscResults t := by
  rw [decDiscResults_eq hlen, decDiscResults_eq (hplen ▸ hlen), ← hplen]
  by_cases h8 : s.plen.toNat % 16 = 8
  · rw [hname (by omega), hversion h8]
  · by_cases h4 : 4 ≤ s.plen.toNat % 16
    · simp only [h8, if_false, hname h4]
    · simp only [h8, h4, false_and, if_false]

/-- Settles O51: a length that lets DEC_DISC read a word takes in all four bytes of it. -/
theorem discoveryIgnoresBytesBeyondLength : Obligations.DiscoveryIgnoresBytesBeyondLength := by
  intro s t hplen hlen hbytes
  have hagree : payloadsAgree (s.plen.toNat % 16) s.pin1 s.pin0 t.pin1 t.pin0 := hbytes
  have hresults : resultsOf s .decDisc = resultsOf t .decDisc :=
    decDiscResults_congr hplen hlen hagree.low_eq fun h8 => hagree.high_eq h8.ge
  refine ⟨_, _, exec_of_length_le hlen, exec_of_length_le (hplen ▸ hlen), ?_⟩
  rw [hresults]
  exact ⟨⟨rfl, rfl, rfl, rfl, rfl, rfl, rfl⟩, rfl⟩

/-! ### The stream decoder after a stream encoder -/

/-- DEC_STREAM unpacks what `PackStream` packed, sees its padding and, at LEN 8, its length (R83, R94). -/
theorem exec_decStream_packStream {s : State} {p v f : Half} (hpin0 : s.pin0 = (packStream p v f).lowWord)
    (hpin1 : s.pin1 = (packStream p v f).highWord) (hplen : s.plen = 8#32) :
    exec .decStream s = .next (complete
      { res0 := p.signExtend 32, res1 := v.signExtend 32, res2 := f.signExtend 32
        flags := { sent := decide (p = sentinel), padOk := true, len8 := true } } s) := by
  rw [exec_of_length_le (by rw [hplen]; decide), resultsOf, decStreamResults_eq, hpin0, hpin1, hplen,
    lowWord_packStream, highWord_packStream, BitVec.extractLsb'_append_eq_right,
    BitVec.extractLsb'_append_eq_left, BitVec.extractLsb'_append_eq_right,
    BitVec.extractLsb'_append_eq_left]
  rfl

/-- SENT, PAD_OK and LEN8 are STATUS bits 8, 9 and 10 (R25). -/
theorem completedStatus_stream_bits (sent padOk len8 : Bool) :
    (completedStatus { sent := sent, padOk := padOk, len8 := len8 }).getLsbD 8 = sent ∧
      (completedStatus { sent := sent, padOk := padOk, len8 := len8 }).getLsbD 9 = padOk ∧
      (completedStatus { sent := sent, padOk := padOk, len8 := len8 }).getLsbD 10 = len8 := by
  rw [getLsbD_completedStatus _ _ (by decide), getLsbD_completedStatus _ _ (by decide),
    getLsbD_completedStatus _ _ (by decide)]
  simp

/-- A raw stream frame with VO = 0 packs the low halves of the three operands (R90, R91). -/
theorem resultsOf_rawStream_pout (ft : Bool) (s : State) :
    (resultsOf s (rawStream ft false)).pout =
      packStream (rawOperand s.opa) (rawOperand s.opb) (rawOperand s.opc) := by
  rw [resultsOf_rawStream]
  rfl

/-- The sentinel pattern is the position -32768 (R7). -/
theorem eq_sentinel_iff {p : Half} : p = sentinel ↔ p.toInt = -32768 := by
  have hs : sentinel.toInt = -32768 := by decide
  rw [← BitVec.toInt_inj, hs]

/-- Settles O52: the encoder emits the three fields packed, which DEC_STREAM unpacks. -/
theorem streamPayloadRoundTrip : Obligations.StreamPayloadRoundTrip := by
  rintro ft s p v f rfl rfl rfl
  have hpacked := resultsOf_rawStream_pout ft s
  obtain ⟨hsent, hpadOk, hlen8⟩ :=
    completedStatus_stream_bits (decide (rawOperand s.opa = sentinel)) true true
  refine ⟨_, _, exec_of_isEncoder (isEncoder_streamInstr ft true false) s,
    exec_decStream_packStream (congrArg Payload.lowWord hpacked) (congrArg Payload.highWord hpacked) rfl,
    rfl, rfl, rfl, hpadOk, hlen8, ?_⟩
  rw [complete_status, hsent, decide_eq_true_iff]
  exact eq_sentinel_iff

end Sys2Proof.Machine

end

/-! Proofs for the exceptions family: which error a command raises, which of several is reported, and that
only a decoder's length, never an operand's value, makes an accepted command fail. -/

section

namespace Sys2Proof.Machine

/-! ### The error of a command -/

/-- A decoder with LEN above 8 raises BAD_LEN (R100). -/
theorem exec_badLen {i : Instr} {s : State} (hi : isDecoder i = true) (hlen : 8 < s.plen.toNat % 16) :
    exec i s = .next (raise .badLen s) := by
  rw [exec_eq, if_pos ⟨hi, hlen⟩]

/-- A decoder's length apart, nothing keeps a command from completing (R100, R102). -/
theorem exec_completes {i : Instr} {s : State} (h : isDecoder i = true → s.plen.toNat % 16 ≤ 8) :
    exec i s = .next (complete (resultsOf s i) s) := by
  rw [exec_eq, if_neg (fun hbad => absurd (h hbad.1) (by omega))]

/-! ### The error of a command word -/

theorem decode_illegalOp {c : Word} (hop : c.toNat % 16 = 0 ∨ 9 ≤ c.toNat % 16) :
    decode c = .error .illegalOp := by
  rw [decode_eq, if_pos hop]

theorem decode_rsvField {c : Word} (hop : ¬(c.toNat % 16 = 0 ∨ 9 ≤ c.toNat % 16))
    (hz : c &&& mustBeZero (c.toNat % 16) ≠ 0#32) : decode c = .error .rsvField := by
  rw [decode_eq, if_neg hop, checkZero_eq_error]
  exact ⟨hz, rfl⟩

/-- A word the decoder refuses raises the decoder's error (R56). -/
theorem executeCommand_of_error {c : Word} {e : CmdError} (h : decode c = .error e) (s : State) :
    executeCommand c s = .next (raise e s) := by
  simp [executeCommand, h]

theorem executeCommand_of_ok {c : Word} {i : Instr} (h : decode c = .ok i) (s : State) :
    executeCommand c s = exec i s := by
  simp [executeCommand, h]

/-- `Execute(c)` once over: the first error that applies, in the order of R103, or the selected command's
results. -/
theorem executeCommand_eq (c : Word) (s : State) :
    executeCommand c s =
      if c.toNat % 16 = 0 ∨ 9 ≤ c.toNat % 16 then .next (raise .illegalOp s)
      else if c &&& mustBeZero (c.toNat % 16) ≠ 0#32 then .next (raise .rsvField s)
      else if 7 ≤ c.toNat % 16 ∧ 8 < s.plen.toNat % 16 then .next (raise .badLen s)
      else .next (complete (resultsOf s (selected c)) s) := by
  split_ifs with hop hz hlen
  · exact executeCommand_of_error (decode_illegalOp hop) s
  · exact executeCommand_of_error (decode_rsvField hop hz) s
  all_goals
    have hdefined : c.toNat % 16 ≠ 0 ∧ c.toNat % 16 < 9 := by omega
    have hdecoder := isDecoder_selected hdefined.1 hdefined.2
    rw [executeCommand_of_ok (decode_eq_ok.mpr ⟨hdefined, not_ne_iff.mp hz, rfl⟩)]
  · exact exec_badLen (hdecoder.mpr hlen.1) hlen.2
  · exact exec_completes fun hi => not_lt.mp fun hbad => hlen ⟨hdecoder.mp hi, hbad⟩

/-- A write to CMD of a word the decoder refuses stores the word and raises the decoder's error (R43, R56). -/
theorem step_of_decode_error {s : State} {c : Word} {rest : List PortEvent} {e : CmdError}
    (hport : s.port = .access ⟨.window 0x00#8, 32, .write c⟩ :: rest) (h : decode c = .error e) :
    step s = .next (raise e { s with port := rest, response := .writeDone, cmd := c }) :=
  (step_command hport).trans (executeCommand_of_error h _)

/-! ### Statements about errors -/

/-- Settles O8: `executeCommand_eq` has the order of R103, and each of its ends writes its own code. -/
theorem errorCodePriority : Obligations.ErrorCodePriority := by
  intro s c rest hport
  rw [step_command hport, executeCommand_eq]
  split_ifs
  case neg => exact ⟨_, rfl, errOf_completedStatus _⟩
  all_goals exact ⟨_, rfl, errOf_errorStatus _⟩

/-- Settles O22: a command that completes writes ERR 0. -/
theorem operandValuesNeverFail : Obligations.OperandValuesNeverFail :=
  fun _ _ h => ⟨_, exec_completes h, errOf_completedStatus _⟩

/-- Settles O50: a decoder above 8 raises BAD_LEN, and every other command completes, with ERR 0. -/
theorem onlyDecodersRaiseBadLen : Obligations.OnlyDecodersRaiseBadLen := by
  refine fun i s => ⟨exec_badLen, fun h => ⟨_, exec_completes fun hi => ?_, ?_⟩⟩
  · exact h.resolve_left (by simp [hi])
  · rw [complete_status, errOf_completedStatus]
    decide

/-- Settles O6: the decoder refuses the word as ILLEGAL_OP. -/
theorem illegalOpWritesOnlyStatus : Obligations.IllegalOpWritesOnlyStatus :=
  fun _ _ _ hport hop => ⟨_, step_of_decode_error hport (decode_illegalOp hop), rfl⟩

/-- Settles O7: the decoder refuses the word as RSV_FIELD. -/
theorem reservedFieldWritesOnlyStatus : Obligations.ReservedFieldWritesOnlyStatus :=
  fun _ _ _ hport h1 h8 hz =>
    ⟨_, step_of_decode_error hport (decode_rsvField (by omega) hz), rfl⟩

end Sys2Proof.Machine

end

/-! Proofs for the reset family: a reset that interrupts an access the port takes abandons it. -/

section

namespace Sys2Proof.Machine

/-! ### Reset during an access -/

/-- An aligned 32-bit access of the window is taken, whatever its kind (R42). -/
theorem accessRefusal_window {o : BitVec 8} (ho : o.toNat % 4 = 0) (k : AccessKind) :
    accessRefusal ⟨.window o, 32, k⟩ = none := by
  simp [accessRefusal, Access.inWindow, Access.isWord, Access.aligned, ho]

/-- A reset event that interrupts an access the port takes is `resetDuringAccess` (R117). -/
theorem step_resetDuring {s : State} {a : Access} {rest : List PortEvent}
    (hport : s.port = .resetDuring a :: rest) (ha : accessRefusal a = none) :
    step s = .next (resetDuringAccess a { s with port := rest }) := by
  rw [step_of_port hport]
  simp [takeEvent, ha]

/-- The events not yet taken stay at the port (log entry 8). -/
@[simp] theorem resetDuringAccess_port (a : Access) (s : State) :
    (resetDuringAccess a s).port = s.port := by
  unfold resetDuringAccess
  split <;> rfl

/-- An interrupted read answers the free value at the counter (I5; log entry 4). -/
theorem resetDuringAccess_read_response {a : Access} (ha : a.kind = .read) (s : State) :
    (resetDuringAccess a s).response = .readData (Config.interruptedRead s.freeCount) := by
  simp [resetDuringAccess, ha]

/-- An interrupted read uses its free value up (log entry 4). -/
theorem resetDuringAccess_read_freeCount {a : Access} (ha : a.kind = .read) (s : State) :
    (resetDuringAccess a s).freeCount = s.freeCount + 1 := by
  simp [resetDuringAccess, ha]

/-- Settles O18: the port takes the access, and `resetDuringAccess` leaves no register but 0. -/
theorem resetAbandonsTheAccessInProgress : Obligations.ResetAbandonsTheAccessInProgress := by
  intro s o k rest hport ho
  exact ⟨_, step_resetDuring hport (accessRefusal_window ho k), allRegistersZero_resetDuringAccess _ _,
    resetDuringAccess_port _ _, fun hk =>
      ⟨resetDuringAccess_read_response hk _, resetDuringAccess_read_freeCount hk _⟩⟩

end Sys2Proof.Machine

end
